-- ==== Sys2Proof/Word.lean ====
section
/-! DEFINITION. The machine's word types (00_scope.md section 6 and rules R7, R8): `u8`, `u16`, `u32` and the
64-bit command word of 30_encoding.md rule R51. -/

namespace Sys2Proof

/-- `u8`: a memory cell, a register `A`, `X`, `Y`, `SP`, a byte operand (R7: `CELL_BITS`, `REG_BITS`, `SP_BITS`). -/
abbrev Byte := BitVec 8

/-- `u16`: the program counter and every 16-bit value (R7: `PC_BITS`). -/
abbrev Word := BitVec 16

/-- The 16-bit address of the processor port (R8, R37: `CPU_ADDR_BITS`). -/
abbrev Addr16 := BitVec 16

/-- The 32-bit address of the memory-controller port (R8, R33: `MEMPORT_ADDR_BITS`). -/
abbrev Addr32 := BitVec 32

/-- A command word (R51). -/
abbrev Command := BitVec 64

end Sys2Proof
end

