-- ==== Sys2Proof/Config.lean ====
section
/-! DEFINITION. The parameters of the block: those the spec fixes (00_scope.md rule R7) and the one open parameter,
`UNUSED_POWERON` (10_state.md rule R17). The status byte's bit order, a configuration value as 93 U1 asks, is
`Config.flagBit` in Machine/Flags.lean. -/

namespace Sys2Proof

/-- The eight flags of the status word, in the order of rule R14. -/
inductive Flag where
  | C | Z | I | D | B | U | V | N
  deriving DecidableEq, Repr

namespace Config

/-- `MEM_SIZE`: number of cells of the memory array (R7, R18). -/
def memSize : Nat := 65536

/-- `OOR_READ`: what an out-of-range read returns (R7, R31). -/
def oorRead : Byte := 0x00

/-- The content of a cell at creation, after `MINIT` and after `RESET` (R18, R45). It is also what a cell that the
memory's list does not hold reads as. -/
def clearedCell : Byte := 0x00

/-- `STACK_BASE`: the stack address is `STACK_BASE | SP` (R7, R13). -/
def stackBase : Word := 0x0100

/-- `RESET_PC`: the value `RESET` writes to `PC` (R7, R80). -/
def resetPc : Word := 0xFFFC

/-- `RESET_SP`: the value `RESET` writes to `SP` (R7, R80). -/
def resetSp : Byte := 0xFF

/-- The charge of one byte read or one byte write on the processor port (R164). -/
def accessCost : Int := 1

/-- The separately counted charge of the stack-pointer update in `PUSHB` and `POPB` (R115, R116, R164). -/
def stackStepCost : Int := 1

/-- `UNUSED_POWERON`: the value of `P.U` at power-on, which no source gives (R17, R150, D12; log 4).
It is one fixed bit, and nothing in Lean can tell which. -/
opaque unusedPoweron : Bool

end Config
end Sys2Proof
end

