-- ==== Sys2Proof/Syntax.lean ====
section
/-! DEFINITION. The operations of the block's command interface, one constructor per row of spec/opcode_table.json
(30_encoding.md rules R55 and R60): the four access operations have one row, and so one constructor, per selector.
Every operand has exactly the width the spec gives it (R53, R54), so every term is an instruction the spec has; an
operand that does not fit its width is refused before it becomes one (WellFormed.lean). -/

namespace Sys2Proof

/-- One command of the caller, decoded. -/
inductive Instr where
  /-- `MINIT`: initialise the memory (R70). -/
  | minit
  /-- `MRD addr32`: bounded read (R71). -/
  | mrd (addr : Addr32)
  /-- `MWR addr32, byte`: bounded write (R72). -/
  | mwr (addr : Addr32) (value : Byte)
  /-- `RESET` (R80). -/
  | reset
  /-- `RDREG A` (R81). -/
  | rdregA
  /-- `RDREG X` (R81). -/
  | rdregX
  /-- `RDREG Y` (R81). -/
  | rdregY
  /-- `RDREG SP` (R81). -/
  | rdregSP
  /-- `RDREG PC` (R81). -/
  | rdregPC
  /-- `RDREG P` (R81). -/
  | rdregP
  /-- `WRREG A, value` (R82). -/
  | wrregA (value : Byte)
  /-- `WRREG X, value` (R82). -/
  | wrregX (value : Byte)
  /-- `WRREG Y, value` (R82). -/
  | wrregY (value : Byte)
  /-- `WRREG SP, value` (R82). -/
  | wrregSP (value : Byte)
  /-- `WRREG PC, value` (R82). -/
  | wrregPC (value : Word)
  /-- `WRREG P, value` (R82). -/
  | wrregP (value : Byte)
  /-- `RDFLG C` (R83). -/
  | rdflgC
  /-- `RDFLG Z` (R83). -/
  | rdflgZ
  /-- `RDFLG I` (R83). -/
  | rdflgI
  /-- `RDFLG D` (R83). -/
  | rdflgD
  /-- `RDFLG B` (R83). -/
  | rdflgB
  /-- `RDFLG U` (R83). -/
  | rdflgU
  /-- `RDFLG V` (R83). -/
  | rdflgV
  /-- `RDFLG N` (R83). -/
  | rdflgN
  /-- `WRFLG C, bit` (R84). -/
  | wrflgC (bit : Bool)
  /-- `WRFLG Z, bit` (R84). -/
  | wrflgZ (bit : Bool)
  /-- `WRFLG I, bit` (R84). -/
  | wrflgI (bit : Bool)
  /-- `WRFLG D, bit` (R84). -/
  | wrflgD (bit : Bool)
  /-- `WRFLG B, bit` (R84). -/
  | wrflgB (bit : Bool)
  /-- `WRFLG U, bit` (R84). -/
  | wrflgU (bit : Bool)
  /-- `WRFLG V, bit` (R84). -/
  | wrflgV (bit : Bool)
  /-- `WRFLG N, bit` (R84). -/
  | wrflgN (bit : Bool)
  /-- `FETCHB`: fetch one byte (R90). -/
  | fetchb
  /-- `FETCHSB`: fetch one byte, returned as a signed number (R91). -/
  | fetchsb
  /-- `FETCHW`: fetch one little-endian word (R92). -/
  | fetchw
  /-- `RDB addr16` (R100). -/
  | rdb (addr : Addr16)
  /-- `RDW addr16` (R101). -/
  | rdw (addr : Addr16)
  /-- `WRB byte, addr16` (R102). -/
  | wrb (value : Byte) (addr : Addr16)
  /-- `WRW word, addr16` (R103). -/
  | wrw (value : Word) (addr : Addr16)
  /-- `STKADDR`: the current stack address (R110). -/
  | stkaddr
  /-- `PUSHW word` (R111). -/
  | pushw (value : Word)
  /-- `PUSHPCM1`: push `PC - 1` (R112). -/
  | pushpcm1
  /-- `PUSHPCP1`: push `PC + 1` (R113). -/
  | pushpcp1
  /-- `PUSHPC` (R114). -/
  | pushpc
  /-- `PUSHB byte` (R115). -/
  | pushb (value : Byte)
  /-- `POPB` (R116). -/
  | popb
  /-- `POPW` (R117). -/
  | popw
  deriving DecidableEq, Repr

end Sys2Proof
end

