-- ==== Sys2Proof/Decode.lean ====
section
/-! DEFINITION. The command word (30_encoding.md rules R51 to R56 and R60): its four fields, the decoder (total on all
2^64 words, refusing the reserved ones by name), the encoder, and the opcode map as masks and patterns. The decoder
and encoder work on the fields; the table of rows is written separately, from rules R53 and R55, so that the two can
be held against each other. -/

namespace Sys2Proof

/-- The four fields of a command word (R51). -/
structure Fields where
  op   : Byte
  sel  : Byte
  addr : Addr32
  data : Word
  deriving DecidableEq, Repr

/-- `OP` is bits 63:56, `SEL` 55:48, `ADDR` 47:16, `DATA` 15:0 (R51). -/
def Fields.ofCommand (w : Command) : Fields where
  op   := w.extractLsb' 56 8
  sel  := w.extractLsb' 48 8
  addr := w.extractLsb' 16 32
  data := w.extractLsb' 0 16

/-- `CMD = OP * 2^56 + SEL * 2^48 + ADDR * 2^16 + DATA` (R51). -/
def Fields.toCommand (f : Fields) : Command :=
  f.op ++ f.sel ++ f.addr ++ f.data

/-- Why a command word is reserved: the three cases of R56, in the order of that rule. -/
inductive Reserved where
  /-- `OP` is none of the 23 codes of R55. -/
  | unassignedOp
  /-- `RDREG`, `WRREG`, `RDFLG` or `WRFLG` with a selector outside its range. -/
  | selectorOutOfRange
  /-- A one in a must-be-zero bit of the format (R52, R53). -/
  | mustBeZero
  deriving DecidableEq, Repr

/-- `addr16 = ADDR[15:0]` (R54). -/
def Fields.addr16 (f : Fields) : Addr16 := f.addr.setWidth 16

/-- `byte = DATA[7:0]` (R54). -/
def Fields.byte (f : Fields) : Byte := f.data.setWidth 8

/-- `bit = DATA[0]` (R54). -/
def Fields.bit (f : Fields) : Bool := f.data.getLsbD 0

/-- `SEL` is zero. -/
def Fields.selZero (f : Fields) : Bool := f.sel == 0

/-- `ADDR` is zero. -/
def Fields.addrZero (f : Fields) : Bool := f.addr == 0

/-- `ADDR[31:16]` is zero. -/
def Fields.addrHighZero (f : Fields) : Bool := f.addr.extractLsb' 16 16 == 0

/-- `DATA` is zero. -/
def Fields.dataZero (f : Fields) : Bool := f.data == 0

/-- `DATA[15:8]` is zero. -/
def Fields.dataHighZero (f : Fields) : Bool := f.data.extractLsb' 8 8 == 0

/-- `DATA[15:1]` is zero. -/
def Fields.dataAboveBitZero (f : Fields) : Bool := f.data.extractLsb' 1 15 == 0

/-- The must-be-zero rule (R52): the operation, if every unused bit is zero. -/
def accept (unusedZero : Bool) (i : Instr) : Except Reserved Instr :=
  if unusedZero then .ok i else .error .mustBeZero

/-- Format Z (R53): no operand. -/
def acceptZ (f : Fields) (i : Instr) : Except Reserved Instr :=
  accept (f.selZero && f.addrZero && f.dataZero) i

/-- Format S (R53): a selector and nothing else. -/
def acceptS (f : Fields) (i : Instr) : Except Reserved Instr :=
  accept (f.addrZero && f.dataZero) i

/-- Format SB of `WRREG` (R53): a selector and a byte. -/
def acceptSB (f : Fields) (i : Instr) : Except Reserved Instr :=
  accept (f.addrZero && f.dataHighZero) i

/-- Format SB of `WRFLG` (R53): a selector and one bit. -/
def acceptBit (f : Fields) (i : Instr) : Except Reserved Instr :=
  accept (f.addrZero && f.dataAboveBitZero) i

/-- `RDREG`, by selector (R55, R81). -/
def decodeRdreg (f : Fields) : Except Reserved Instr :=
  match f.sel.toNat with
  | 0 => acceptS f .rdregA
  | 1 => acceptS f .rdregX
  | 2 => acceptS f .rdregY
  | 3 => acceptS f .rdregSP
  | 4 => acceptS f .rdregPC
  | 5 => acceptS f .rdregP
  | _ => .error .selectorOutOfRange

/-- `WRREG`, by selector (R55, R82); `PC` has format SW, a full word. -/
def decodeWrreg (f : Fields) : Except Reserved Instr :=
  match f.sel.toNat with
  | 0 => acceptSB f (.wrregA f.byte)
  | 1 => acceptSB f (.wrregX f.byte)
  | 2 => acceptSB f (.wrregY f.byte)
  | 3 => acceptSB f (.wrregSP f.byte)
  | 4 => accept f.addrZero (.wrregPC f.data)
  | 5 => acceptSB f (.wrregP f.byte)
  | _ => .error .selectorOutOfRange

/-- `RDFLG`, by flag index (R55, R83). -/
def decodeRdflg (f : Fields) : Except Reserved Instr :=
  match f.sel.toNat with
  | 0 => acceptS f .rdflgC
  | 1 => acceptS f .rdflgZ
  | 2 => acceptS f .rdflgI
  | 3 => acceptS f .rdflgD
  | 4 => acceptS f .rdflgB
  | 5 => acceptS f .rdflgU
  | 6 => acceptS f .rdflgV
  | 7 => acceptS f .rdflgN
  | _ => .error .selectorOutOfRange

/-- `WRFLG`, by flag index (R55, R84). -/
def decodeWrflg (f : Fields) : Except Reserved Instr :=
  match f.sel.toNat with
  | 0 => acceptBit f (.wrflgC f.bit)
  | 1 => acceptBit f (.wrflgZ f.bit)
  | 2 => acceptBit f (.wrflgI f.bit)
  | 3 => acceptBit f (.wrflgD f.bit)
  | 4 => acceptBit f (.wrflgB f.bit)
  | 5 => acceptBit f (.wrflgU f.bit)
  | 6 => acceptBit f (.wrflgV f.bit)
  | 7 => acceptBit f (.wrflgN f.bit)
  | _ => .error .selectorOutOfRange

/-- The opcode map on fields (R55, R56). -/
def decodeFields (f : Fields) : Except Reserved Instr :=
  match f.op.toNat with
  | 0x10 => acceptZ f .minit
  | 0x11 => accept (f.selZero && f.dataZero) (.mrd f.addr)
  | 0x12 => accept (f.selZero && f.dataHighZero) (.mwr f.addr f.byte)
  | 0x20 => acceptZ f .reset
  | 0x21 => decodeRdreg f
  | 0x22 => decodeWrreg f
  | 0x23 => decodeRdflg f
  | 0x24 => decodeWrflg f
  | 0x30 => acceptZ f .fetchb
  | 0x31 => acceptZ f .fetchsb
  | 0x32 => acceptZ f .fetchw
  | 0x40 => accept (f.selZero && f.addrHighZero && f.dataZero) (.rdb f.addr16)
  | 0x41 => accept (f.selZero && f.addrHighZero && f.dataZero) (.rdw f.addr16)
  | 0x42 => accept (f.selZero && f.addrHighZero && f.dataHighZero) (.wrb f.byte f.addr16)
  | 0x43 => accept (f.selZero && f.addrHighZero) (.wrw f.data f.addr16)
  | 0x50 => acceptZ f .stkaddr
  | 0x51 => accept (f.selZero && f.addrZero) (.pushw f.data)
  | 0x52 => acceptZ f .pushpcm1
  | 0x53 => acceptZ f .pushpcp1
  | 0x54 => acceptZ f .pushpc
  | 0x55 => accept (f.selZero && f.addrZero && f.dataHighZero) (.pushb f.byte)
  | 0x56 => acceptZ f .popb
  | 0x57 => acceptZ f .popw
  | _ => .error .unassignedOp

/-- Decode a command word (R60): the operation it spells, or the reason it is reserved (R56). -/
def decode (w : Command) : Except Reserved Instr :=
  decodeFields (Fields.ofCommand w)

/-- The fields of an operation's one command word (R52, R53, R55). -/
def Instr.fields : Instr → Fields
  | .minit => ⟨0x10, 0, 0, 0⟩
  | .mrd a => ⟨0x11, 0, a, 0⟩
  | .mwr a v => ⟨0x12, 0, a, v.setWidth 16⟩
  | .reset => ⟨0x20, 0, 0, 0⟩
  | .rdregA => ⟨0x21, 0, 0, 0⟩
  | .rdregX => ⟨0x21, 1, 0, 0⟩
  | .rdregY => ⟨0x21, 2, 0, 0⟩
  | .rdregSP => ⟨0x21, 3, 0, 0⟩
  | .rdregPC => ⟨0x21, 4, 0, 0⟩
  | .rdregP => ⟨0x21, 5, 0, 0⟩
  | .wrregA v => ⟨0x22, 0, 0, v.setWidth 16⟩
  | .wrregX v => ⟨0x22, 1, 0, v.setWidth 16⟩
  | .wrregY v => ⟨0x22, 2, 0, v.setWidth 16⟩
  | .wrregSP v => ⟨0x22, 3, 0, v.setWidth 16⟩
  | .wrregPC v => ⟨0x22, 4, 0, v⟩
  | .wrregP v => ⟨0x22, 5, 0, v.setWidth 16⟩
  | .rdflgC => ⟨0x23, 0, 0, 0⟩
  | .rdflgZ => ⟨0x23, 1, 0, 0⟩
  | .rdflgI => ⟨0x23, 2, 0, 0⟩
  | .rdflgD => ⟨0x23, 3, 0, 0⟩
  | .rdflgB => ⟨0x23, 4, 0, 0⟩
  | .rdflgU => ⟨0x23, 5, 0, 0⟩
  | .rdflgV => ⟨0x23, 6, 0, 0⟩
  | .rdflgN => ⟨0x23, 7, 0, 0⟩
  | .wrflgC b => ⟨0x24, 0, 0, (BitVec.ofBool b).setWidth 16⟩
  | .wrflgZ b => ⟨0x24, 1, 0, (BitVec.ofBool b).setWidth 16⟩
  | .wrflgI b => ⟨0x24, 2, 0, (BitVec.ofBool b).setWidth 16⟩
  | .wrflgD b => ⟨0x24, 3, 0, (BitVec.ofBool b).setWidth 16⟩
  | .wrflgB b => ⟨0x24, 4, 0, (BitVec.ofBool b).setWidth 16⟩
  | .wrflgU b => ⟨0x24, 5, 0, (BitVec.ofBool b).setWidth 16⟩
  | .wrflgV b => ⟨0x24, 6, 0, (BitVec.ofBool b).setWidth 16⟩
  | .wrflgN b => ⟨0x24, 7, 0, (BitVec.ofBool b).setWidth 16⟩
  | .fetchb => ⟨0x30, 0, 0, 0⟩
  | .fetchsb => ⟨0x31, 0, 0, 0⟩
  | .fetchw => ⟨0x32, 0, 0, 0⟩
  | .rdb a => ⟨0x40, 0, a.setWidth 32, 0⟩
  | .rdw a => ⟨0x41, 0, a.setWidth 32, 0⟩
  | .wrb v a => ⟨0x42, 0, a.setWidth 32, v.setWidth 16⟩
  | .wrw v a => ⟨0x43, 0, a.setWidth 32, v⟩
  | .stkaddr => ⟨0x50, 0, 0, 0⟩
  | .pushw v => ⟨0x51, 0, 0, v⟩
  | .pushpcm1 => ⟨0x52, 0, 0, 0⟩
  | .pushpcp1 => ⟨0x53, 0, 0, 0⟩
  | .pushpc => ⟨0x54, 0, 0, 0⟩
  | .pushb v => ⟨0x55, 0, 0, v.setWidth 16⟩
  | .popb => ⟨0x56, 0, 0, 0⟩
  | .popw => ⟨0x57, 0, 0, 0⟩

/-- The command word of an operation (R51, R52). -/
def encode (i : Instr) : Command := i.fields.toCommand

/-- The operation's name in spec/opcode_table.json. -/
def Instr.mnemonic : Instr → String
  | .minit => "MINIT"
  | .mrd _ => "MRD"
  | .mwr _ _ => "MWR"
  | .reset => "RESET"
  | .rdregA => "RDREG_A"
  | .rdregX => "RDREG_X"
  | .rdregY => "RDREG_Y"
  | .rdregSP => "RDREG_SP"
  | .rdregPC => "RDREG_PC"
  | .rdregP => "RDREG_P"
  | .wrregA _ => "WRREG_A"
  | .wrregX _ => "WRREG_X"
  | .wrregY _ => "WRREG_Y"
  | .wrregSP _ => "WRREG_SP"
  | .wrregPC _ => "WRREG_PC"
  | .wrregP _ => "WRREG_P"
  | .rdflgC => "RDFLG_C"
  | .rdflgZ => "RDFLG_Z"
  | .rdflgI => "RDFLG_I"
  | .rdflgD => "RDFLG_D"
  | .rdflgB => "RDFLG_B"
  | .rdflgU => "RDFLG_U"
  | .rdflgV => "RDFLG_V"
  | .rdflgN => "RDFLG_N"
  | .wrflgC _ => "WRFLG_C"
  | .wrflgZ _ => "WRFLG_Z"
  | .wrflgI _ => "WRFLG_I"
  | .wrflgD _ => "WRFLG_D"
  | .wrflgB _ => "WRFLG_B"
  | .wrflgU _ => "WRFLG_U"
  | .wrflgV _ => "WRFLG_V"
  | .wrflgN _ => "WRFLG_N"
  | .fetchb => "FETCHB"
  | .fetchsb => "FETCHSB"
  | .fetchw => "FETCHW"
  | .rdb _ => "RDB"
  | .rdw _ => "RDW"
  | .wrb _ _ => "WRB"
  | .wrw _ _ => "WRW"
  | .stkaddr => "STKADDR"
  | .pushw _ => "PUSHW"
  | .pushpcm1 => "PUSHPCM1"
  | .pushpcp1 => "PUSHPCP1"
  | .pushpc => "PUSHPC"
  | .pushb _ => "PUSHB"
  | .popb => "POPB"
  | .popw => "POPW"

/-- The eleven formats (R53). -/
inductive Format where
  | Z | M | MB | A | AB | AW | B | W | S | SB | SW
  deriving DecidableEq, Repr

/-- The bits of `CMD` a format fixes (R53, the mask column). -/
def Format.mask : Format → Command
  | .Z | .S => 0xFFFFFFFFFFFFFFFF
  | .M => 0xFFFF00000000FFFF
  | .MB => 0xFFFF00000000FF00
  | .A => 0xFFFFFFFF0000FFFF
  | .AB => 0xFFFFFFFF0000FF00
  | .AW => 0xFFFFFFFF00000000
  | .B | .SB => 0xFFFFFFFFFFFFFF00
  | .W | .SW => 0xFFFFFFFFFFFF0000

/-- One row of the opcode map (R55, R60). -/
structure Row where
  mnemonic : String
  op       : Nat
  sel      : Nat
  format   : Format
  deriving DecidableEq, Repr

/-- The row's mask (R53): its format's, but `WRFLG` fixes `DATA[7:1]` too. -/
def Row.mask (r : Row) : Command :=
  if r.op = 0x24 then 0xFFFFFFFFFFFFFFFE else r.format.mask

/-- `match = OP << 56 | SEL << 48` (R53). -/
def Row.pattern (r : Row) : Command :=
  BitVec.ofNat 64 r.op <<< 56 ||| BitVec.ofNat 64 r.sel <<< 48

/-- `(CMD & mask) == match` (R60). -/
def Row.spells (r : Row) (w : Command) : Bool :=
  w &&& r.mask == r.pattern

/-- Memory controller (R55, codes 0x10 to 0x12). -/
def controllerRows : List Row :=
  [⟨"MINIT", 0x10, 0, .Z⟩,
   ⟨"MRD", 0x11, 0, .M⟩,
   ⟨"MWR", 0x12, 0, .MB⟩]

/-- `RESET` and `RDREG` (R55, codes 0x20 and 0x21). -/
def rdregRows : List Row :=
  [⟨"RESET", 0x20, 0, .Z⟩,
   ⟨"RDREG_A", 0x21, 0, .S⟩,
   ⟨"RDREG_X", 0x21, 1, .S⟩,
   ⟨"RDREG_Y", 0x21, 2, .S⟩,
   ⟨"RDREG_SP", 0x21, 3, .S⟩,
   ⟨"RDREG_PC", 0x21, 4, .S⟩,
   ⟨"RDREG_P", 0x21, 5, .S⟩]

/-- `WRREG` (R55, code 0x22). -/
def wrregRows : List Row :=
  [⟨"WRREG_A", 0x22, 0, .SB⟩,
   ⟨"WRREG_X", 0x22, 1, .SB⟩,
   ⟨"WRREG_Y", 0x22, 2, .SB⟩,
   ⟨"WRREG_SP", 0x22, 3, .SB⟩,
   ⟨"WRREG_PC", 0x22, 4, .SW⟩,
   ⟨"WRREG_P", 0x22, 5, .SB⟩]

/-- `RDFLG` (R55, code 0x23). -/
def rdflgRows : List Row :=
  [⟨"RDFLG_C", 0x23, 0, .S⟩,
   ⟨"RDFLG_Z", 0x23, 1, .S⟩,
   ⟨"RDFLG_I", 0x23, 2, .S⟩,
   ⟨"RDFLG_D", 0x23, 3, .S⟩,
   ⟨"RDFLG_B", 0x23, 4, .S⟩,
   ⟨"RDFLG_U", 0x23, 5, .S⟩,
   ⟨"RDFLG_V", 0x23, 6, .S⟩,
   ⟨"RDFLG_N", 0x23, 7, .S⟩]

/-- `WRFLG` (R55, code 0x24). -/
def wrflgRows : List Row :=
  [⟨"WRFLG_C", 0x24, 0, .SB⟩,
   ⟨"WRFLG_Z", 0x24, 1, .SB⟩,
   ⟨"WRFLG_I", 0x24, 2, .SB⟩,
   ⟨"WRFLG_D", 0x24, 3, .SB⟩,
   ⟨"WRFLG_B", 0x24, 4, .SB⟩,
   ⟨"WRFLG_U", 0x24, 5, .SB⟩,
   ⟨"WRFLG_V", 0x24, 6, .SB⟩,
   ⟨"WRFLG_N", 0x24, 7, .SB⟩]

/-- Fetch (R55, codes 0x30 to 0x32). -/
def fetchRows : List Row :=
  [⟨"FETCHB", 0x30, 0, .Z⟩,
   ⟨"FETCHSB", 0x31, 0, .Z⟩,
   ⟨"FETCHW", 0x32, 0, .Z⟩]

/-- Read and write (R55, codes 0x40 to 0x43). -/
def accessRows : List Row :=
  [⟨"RDB", 0x40, 0, .A⟩,
   ⟨"RDW", 0x41, 0, .A⟩,
   ⟨"WRB", 0x42, 0, .AB⟩,
   ⟨"WRW", 0x43, 0, .AW⟩]

/-- Stack (R55, codes 0x50 to 0x57). -/
def stackRows : List Row :=
  [⟨"STKADDR", 0x50, 0, .Z⟩,
   ⟨"PUSHW", 0x51, 0, .W⟩,
   ⟨"PUSHPCM1", 0x52, 0, .Z⟩,
   ⟨"PUSHPCP1", 0x53, 0, .Z⟩,
   ⟨"PUSHPC", 0x54, 0, .Z⟩,
   ⟨"PUSHB", 0x55, 0, .B⟩,
   ⟨"POPB", 0x56, 0, .Z⟩,
   ⟨"POPW", 0x57, 0, .Z⟩]

/-- The opcode map, 47 rows (R55, R60). -/
def opcodeRows : List Row :=
  controllerRows ++ rdregRows ++ wrregRows ++ rdflgRows ++ wrflgRows ++ fetchRows ++ accessRows ++ stackRows

/-- A command word is accepted when a row of the opcode map spells it (R56, R60). -/
def accepted (w : Command) : Bool :=
  opcodeRows.any fun r => r.spells w

/-- The instruction the decoder reads from a command whose low `nbits` bits are those of `w`, the bits above being
zero; bit 0 is the command word's least significant bit (R51). Nothing that needs more than 64 bits is a command. -/
def decodeTableWord (nbits w : Nat) : Option Instr :=
  if w % 2 ^ nbits < 2 ^ 64 then
    match decode (BitVec.ofNat 64 (w % 2 ^ nbits)) with
    | .ok i => some i
    | .error _ => none
  else none

end Sys2Proof
end

