-- ==== Sys2Proof/Machine/State.lean ====
section
/-! DEFINITION. The state (10_state.md rule R10), the reasons a step can end without a next state, and the state at
power-on (70_reset_and_hazards.md rule R150). -/

namespace Sys2Proof.Machine

/-- The status word: eight independent stored bits (R14). The status byte `P` is a view of them, computed in
Machine/Flags.lean; there is no second copy (93 U2). -/
structure Flags where
  /-- `P.C`, Carry. -/
  c : Bool
  /-- `P.Z`, Zero. -/
  z : Bool
  /-- `P.I`, InterruptDisable. -/
  i : Bool
  /-- `P.D`, DecimalMode. -/
  d : Bool
  /-- `P.B`, Break. -/
  b : Bool
  /-- `P.U`, Unused. -/
  u : Bool
  /-- `P.V`, Overflow. -/
  v : Bool
  /-- `P.N`, Negative. -/
  n : Bool
  deriving DecidableEq, Repr

/-- `MEM`: the cells that do not hold `Config.clearedCell`, by rising address (R18; the form is `Memory.wf`). -/
abbrev Memory := List Host.Cell

/-- The abstract result of an operation (R57): nothing, a bit, a `u8`, an `s8` (held as its eight bits) or a `u16`. -/
inductive Response where
  | none
  | bit (b : Bool)
  | byte (v : Byte)
  | signedByte (v : Byte)
  | word (v : Word)
  deriving DecidableEq, Repr

/-- One transaction the caller will present (R50): a command word, and the budget the caller sets before it, if it
sets one (R19 item 4; log 16). -/
structure Request where
  cmd    : Command
  budget : Option Int
  deriving DecidableEq, Repr

/-- The state of the machine: R10's tuple, and the transaction interface of R50 (the last response, and the commands
the caller will still issue; log 1, log 2). -/
structure State where
  /-- `A` (R11). -/
  a : Byte
  /-- `X` (R11). -/
  x : Byte
  /-- `Y` (R11). -/
  y : Byte
  /-- `PC` (R12). -/
  pc : Word
  /-- `SP` (R13). -/
  sp : Byte
  /-- The status word (R14). -/
  p : Flags
  /-- `MEM` (R18). -/
  mem : Memory
  /-- `cyc`, the caller's cycle budget, unbounded (R19). -/
  cyc : Int
  /-- What the last transaction returned (R57). -/
  response : Response
  /-- The transactions the caller will present, the next one first (R4, R50). -/
  pending : List Request
  deriving DecidableEq, Repr

/-- The block raises no exception and no address faults (60_exceptions.md R130, R131): no step faults, so the type has
no constructor (log 17). -/
inductive Fault where
  deriving DecidableEq, Repr

/-- Why there is no step. -/
inductive Refusal where
  /-- Raised by `exec` for an instruction whose meaning is not written yet; safe. No arm of this model raises it. -/
  | notModelled (mnemonic : String)
  /-- Raised by `step` for a reserved command word: "A model must refuse it: the decoder answers `invalid`, the machine
  has no step for it" (R56); safe. -/
  | reservedCommand (why : Reserved)
  /-- Raised by `step` when the caller presents no command: the block "has no step that is not the execution of one
  command from the caller" (R4); safe (log 14). -/
  | noCommand
  deriving DecidableEq, Repr

/-- The power-on state for a given value of the open parameter `UNUSED_POWERON` (R150). The spec gives `cyc` no value
there: 0 is the model's choice (log 3). -/
def State.powerOn (unused : Bool) : State where
  a := 0x00
  x := 0x00
  y := 0x00
  pc := Config.resetPc
  sp := Config.resetSp
  p := { c := false, z := false, i := false, d := false, b := false, u := unused, v := false, n := false }
  mem := []
  cyc := 0
  response := .none
  pending := []

/-- The machine right after power-on (R150, R151; log 4 for `P.U`). -/
def State.reset : State := State.powerOn Config.unusedPoweron

end Sys2Proof.Machine
end

