-- ==== Sys2Proof/Machine/Flags.lean ====
section
/-! DEFINITION. The flags by name, and the status byte as a view of them (10_state.md rules R14 and R15). This is every
flag computation the spec has: no operation writes a flag as a side effect. -/

/-- The bit of the status byte each flag occupies (R15; the order is decision D10, log 5). -/
def Sys2Proof.Config.flagBit : Flag → Nat
  | .C => 0
  | .Z => 1
  | .I => 2
  | .D => 3
  | .B => 4
  | .U => 5
  | .V => 6
  | .N => 7

namespace Sys2Proof.Machine

/-- `FLAG[f]` (R15, R83). -/
def Flags.get (p : Flags) : Flag → Bool
  | .C => p.c
  | .Z => p.z
  | .I => p.i
  | .D => p.d
  | .B => p.b
  | .U => p.u
  | .V => p.v
  | .N => p.n

/-- `FLAG[f] <- b`: the other seven flags keep their values (R84). -/
def Flags.set (p : Flags) (f : Flag) (b : Bool) : Flags :=
  match f with
  | .C => { p with c := b }
  | .Z => { p with z := b }
  | .I => { p with i := b }
  | .D => { p with d := b }
  | .B => { p with b := b }
  | .U => { p with u := b }
  | .V => { p with v := b }
  | .N => { p with n := b }

/-- One flag at its bit of the status byte (R15). -/
def Flags.placed (p : Flags) (f : Flag) : Byte :=
  (BitVec.ofBool (p.get f)).setWidth 8 <<< Config.flagBit f

/-- `toByte` (R15): the eight flags composed by shifts. -/
def Flags.toByte (p : Flags) : Byte :=
  p.placed .C ||| p.placed .Z ||| p.placed .I ||| p.placed .D |||
  p.placed .B ||| p.placed .U ||| p.placed .V ||| p.placed .N

/-- `fromByte` (R15): `FLAG[i] <- b[i]` for all eight flags. -/
def Flags.fromByte (b : Byte) : Flags where
  c := b.getLsbD (Config.flagBit .C)
  z := b.getLsbD (Config.flagBit .Z)
  i := b.getLsbD (Config.flagBit .I)
  d := b.getLsbD (Config.flagBit .D)
  b := b.getLsbD (Config.flagBit .B)
  u := b.getLsbD (Config.flagBit .U)
  v := b.getLsbD (Config.flagBit .V)
  n := b.getLsbD (Config.flagBit .N)

/-- The flags after `RESET`: all cleared but `Unused`, which is left untouched (R16, R80). -/
def Flags.cleared (p : Flags) : Flags where
  c := false
  z := false
  i := false
  d := false
  b := false
  u := p.u
  v := false
  n := false

end Sys2Proof.Machine
end

