-- ==== Sys2Proof/WellFormed.lean ====
section
/-! DEFINITION. Well-formedness of a command as the caller writes it (30_encoding.md rules R55 and R58): the operation's
name followed by its operands, whose numbers have no width yet. A well-formed command has the operands its operation
takes, in the order of the document's argument lists, and every number fits its operand's width: "An operand that
does not fit its width ... is an assembly error, not a truncation." Once assembled (Machine/Assembler.lean), the
widths are carried by the types of `Instr`; the must-be-zero rule for command words is in Decode.lean. -/

namespace Sys2Proof

/-- The 23 operations (R55), by mnemonic. -/
inductive Op where
  | MINIT | MRD | MWR | RESET | RDREG | WRREG | RDFLG | WRFLG | FETCHB | FETCHSB | FETCHW
  | RDB | RDW | WRB | WRW | STKADDR | PUSHW | PUSHPCM1 | PUSHPCP1 | PUSHPC | PUSHB | POPB | POPW
  deriving DecidableEq, Repr

/-- The register selectors of `RDREG` and `WRREG` (R55, R81). -/
inductive RegName where
  | A | X | Y | SP | PC | P
  deriving DecidableEq, Repr

/-- One operand as written (R58): a register selector, a flag letter or a number. -/
inductive Operand where
  | reg  (r : RegName)
  | flag (f : Flag)
  | num  (n : Nat)
  deriving DecidableEq, Repr

/-- A command as written (R58). -/
structure Source where
  op       : Op
  operands : List Operand
  deriving DecidableEq, Repr

/-- What an operand position takes: a register selector, a flag letter, or a number of so many bits (R53). -/
inductive OperandKind where
  | reg
  | flag
  | num (bits : Nat)
  deriving DecidableEq, Repr

/-- The operand positions of a command (R55, R58). `WRREG`'s value is 16 bits wide for `PC`, 8 for the others (R82). -/
def Source.kinds (c : Source) : List OperandKind :=
  match c.op with
  | .MINIT | .RESET | .FETCHB | .FETCHSB | .FETCHW | .STKADDR => []
  | .PUSHPCM1 | .PUSHPCP1 | .PUSHPC | .POPB | .POPW => []
  | .MRD => [.num 32]
  | .MWR => [.num 32, .num 8]
  | .RDREG => [.reg]
  | .WRREG => if c.operands.head? = some (.reg .PC) then [.reg, .num 16] else [.reg, .num 8]
  | .RDFLG => [.flag]
  | .WRFLG => [.flag, .num 1]
  | .RDB | .RDW => [.num 16]
  | .WRB => [.num 8, .num 16]
  | .WRW => [.num 16, .num 16]
  | .PUSHW => [.num 16]
  | .PUSHB => [.num 8]

/-- Is the operand of the kind its position takes? -/
def Operand.hasKind : OperandKind → Operand → Bool
  | .reg, .reg _ => true
  | .flag, .flag _ => true
  | .num _, .num _ => true
  | _, _ => false

/-- Does a number fit the width of its position (R58)? -/
def Operand.fits : OperandKind → Operand → Bool
  | .num bits, .num n => decide (n < 2 ^ bits)
  | _, _ => true

/-- The first check: as many operands as the operation takes, each of its position's kind. -/
def Source.shapeOk (c : Source) : Bool :=
  c.kinds.length == c.operands.length && (c.kinds.zip c.operands).all fun p => p.2.hasKind p.1

/-- The second check: every number fits its width. -/
def Source.widthsOk (c : Source) : Bool :=
  (c.kinds.zip c.operands).all fun p => p.2.fits p.1

/-- A command the assembler accepts (R58). -/
def Source.wellFormed (c : Source) : Bool :=
  c.shapeOk && c.widthsOk

end Sys2Proof
end

