-- ==== Sys2Proof/Machine/Operands.lean ====
section
/-! DEFINITION. Operand forms: the bytes of a word (20_memory.md rule R34), the effective addresses (rule R44), the
register selectors (41_system_and_register_access.md rules R81 and R82), and the one write of each register. -/

namespace Sys2Proof.Machine

/-- `w[7:0]`. -/
def loByte (w : Word) : Byte := w.extractLsb' 0 8

/-- `w[15:8]`. -/
def hiByte (w : Word) : Byte := w.extractLsb' 8 8

/-- The concatenation of R34, `lo | (hi << 8)`. -/
def makeWord (hi lo : Byte) : Word := hi ++ lo

/-- `zext_32`: how the processor port passes a 16-bit address to the memory controller (R37, R44). -/
def zext32 (a : Addr16) : Addr32 := a.setWidth 32

/-- The second address of a word access: the first plus one, modulo 65536 (R37; log 6). -/
def nextAddress (a : Addr16) : Addr16 := a + 1

/-- `StackAddress()` for a pointer value: `0x0100 | SP` (R13, R110). -/
def stackAddress (sp : Byte) : Addr16 := Config.stackBase ||| sp.setWidth 16

/-- Where `POPW` reads its low byte: `StackAddress() + 1`, a 16-bit sum that is not masked to the page (R117). -/
def popWordAddress (sp : Byte) : Addr16 := stackAddress sp + 1

def State.setA (v : Byte) (s : State) : State := { s with a := v }
def State.setX (v : Byte) (s : State) : State := { s with x := v }
def State.setY (v : Byte) (s : State) : State := { s with y := v }
def State.setPc (v : Word) (s : State) : State := { s with pc := v }
def State.setSp (v : Byte) (s : State) : State := { s with sp := v }
def State.setFlags (p : Flags) (s : State) : State := { s with p := p }
def State.setMem (m : Memory) (s : State) : State := { s with mem := m }

/-- `REG[r]` (R81): a byte, or a word for `PC`; for `P` the status byte. -/
def readRegister (r : RegName) (s : State) : Response :=
  match r with
  | .A => .byte s.a
  | .X => .byte s.x
  | .Y => .byte s.y
  | .SP => .byte s.sp
  | .PC => .word s.pc
  | .P => .byte s.p.toByte

end Sys2Proof.Machine
end

