-- ==== Sys2Proof/Machine/Ops.lean ====
section
/-! DEFINITION. The shared operations: the memory array and its two bounded primitives (20_memory.md rules R31, R32),
the charged accesses of the processor port, the stack and fetch steps, the response word (30_encoding.md rule R57) and
the taking of a transaction (rule R50).

There is no operation that takes an exception, because the block has none: "No operation here raises an error type"
(60_exceptions.md rule R130), "There is no trap entry" (R135), "There is no trap-return operation" (R136). -/

namespace Sys2Proof.Machine

/-- The content of cell `n`; a cell the list does not hold is cleared (R18, R45). -/
def Memory.cell : Memory → Nat → Byte
  | [], _ => Config.clearedCell
  | (b, w) :: rest, n => if b = n then w else Memory.cell rest n

/-- `MEM[n] <- v`, in the list's canonical form. -/
def Memory.put : Memory → Nat → Byte → Memory
  | [], n, v => if v = Config.clearedCell then [] else [(n, v)]
  | (b, w) :: rest, n, v =>
    if n < b then
      if v = Config.clearedCell then (b, w) :: rest else (n, v) :: (b, w) :: rest
    else if n = b then
      if v = Config.clearedCell then rest else (n, v) :: rest
    else (b, w) :: Memory.put rest n v

/-- The canonical form from address `lo` on: addresses strictly rising from `lo`, all inside the array, no entry equal
to what an unlisted cell holds. -/
def Memory.wfFrom : Nat → Memory → Bool
  | _, [] => true
  | lo, (b, w) :: rest =>
    decide (lo ≤ b) && decide (b < Config.memSize) && decide (w ≠ Config.clearedCell) && Memory.wfFrom (b + 1) rest

/-- The canonical form of the memory's list. -/
def Memory.wf (m : Memory) : Bool := Memory.wfFrom 0 m

/-- Every cell cleared: the effect of `Initialise()` (R45, R70). -/
def Memory.initialised : Memory := []

/-- `MemRead(addr, 1)` (R31). -/
def memRead (m : Memory) (addr : Addr32) : Byte :=
  if addr.toNat < Config.memSize then m.cell addr.toNat else Config.oorRead

/-- `MemWrite(addr, 1, v)` (R32). -/
def memWrite (m : Memory) (addr : Addr32) (v : Byte) : Memory :=
  if addr.toNat < Config.memSize then m.put addr.toNat v else m

/-- `cyc <- cyc - k` (R19, R164). -/
def State.charge (k : Int) (s : State) : State := { s with cyc := s.cyc - k }

/-- `RES <- r` (R57). -/
def State.respond (r : Response) (s : State) : State := { s with response := r }

/-- A charged byte read on the processor port (R100): the byte, and the state after the charge. -/
def busRead (a : Addr16) (s : State) : Byte × State :=
  (memRead s.mem (zext32 a), s.charge Config.accessCost)

/-- A charged byte write on the processor port (R102). -/
def busWrite (a : Addr16) (v : Byte) (s : State) : State :=
  (s.setMem (memWrite s.mem (zext32 a) v)).charge Config.accessCost

/-- A charged little-endian word read, "built from two `ReadByte` calls at `address` and `address+1`" (R101). -/
def busReadWord (a : Addr16) (s : State) : Word × State :=
  let lo := busRead a s
  let hi := busRead (nextAddress a) lo.2
  (makeWord hi.1 lo.1, hi.2)

/-- A charged little-endian word write (R103). -/
def busWriteWord (a : Addr16) (v : Word) (s : State) : State :=
  busWrite (nextAddress a) (hiByte v) (busWrite a (loByte v) s)

/-- Read the byte at `PC`, charged, and advance `PC` by one modulo 65536 (R90, R91). -/
def fetchByte (s : State) : Byte × State :=
  let r := busRead s.pc s
  (r.1, r.2.setPc (s.pc + 1))

/-- Read the word at `PC`, charged, and advance `PC` by two modulo 65536 (R92). -/
def fetchWord (s : State) : Word × State :=
  let r := busReadWord s.pc s
  (r.1, r.2.setPc (s.pc + 2))

/-- Write a byte at the current stack address, charged, then step `SP` down modulo 256, uncharged (one half of R111). -/
def stackWrite (v : Byte) (s : State) : State :=
  (busWrite (stackAddress s.sp) v s).setSp (s.sp - 1)

/-- `PushWord`: high byte first (R111). -/
def pushWord (v : Word) (s : State) : State :=
  stackWrite (loByte v) (stackWrite (hiByte v) s)

/-- `PushByte`: one write and the separately charged pointer step (R115). -/
def pushByte (v : Byte) (s : State) : State :=
  (stackWrite v s).charge Config.stackStepCost

/-- `PopByte`: the charged pointer step first, then the read at the new stack address (R116). -/
def popByte (s : State) : Byte × State :=
  busRead (stackAddress (s.sp + 1)) ((s.setSp (s.sp + 1)).charge Config.stackStepCost)

/-- `PopWord`: one word read at `StackAddress() + 1`, then `SP + 2` in one uncharged step (R117). -/
def popWord (s : State) : Word × State :=
  let r := busReadWord (popWordAddress s.sp) s
  (r.1, r.2.setSp (s.sp + 2))

/-- The 16-bit coding of a result on the response word (R57). -/
def Response.toRes : Response → Word
  | .none => 0x0000
  | .bit b => (BitVec.ofBool b).setWidth 16
  | .byte v => v.setWidth 16
  | .signedByte v => v.signExtend 16
  | .word v => v

/-- The number an operation's abstract result stands for (R57): `sint8` for the signed byte, nothing for nothing. -/
def Response.value : Response → Option Int
  | .none => Option.none
  | .bit b => some b.toInt
  | .byte v => some v.toNat
  | .signedByte v => some v.toInt
  | .word v => some v.toNat

/-- Take the caller's next transaction (R50): its command leaves the queue, and the budget it sets, if it sets one,
becomes the current one (R19 item 4). -/
def State.take (r : Request) (rest : List Request) (s : State) : State :=
  { s with pending := rest, cyc := r.budget.getD s.cyc }

/-- The caller issues a command next, leaving its budget as it is. -/
def State.issue (w : Command) (s : State) : State :=
  { s with pending := ⟨w, Option.none⟩ :: s.pending }

end Sys2Proof.Machine
end

