-- ==== Sys2Proof/Machine/Fetch.lean ====
section
/-! DEFINITION. The fetch operations (42_fetch.md): they return what they read and load no register but `PC`. -/

namespace Sys2Proof.Machine

/-- `FETCHB` (R90). -/
def execFetchb (s : State) : Host.Outcome State Fault Refusal :=
  let r := fetchByte s
  .next (r.2.respond (.byte r.1))

/-- `FETCHSB` (R91): as `FETCHB`, with the byte read as a signed number. -/
def execFetchsb (s : State) : Host.Outcome State Fault Refusal :=
  let r := fetchByte s
  .next (r.2.respond (.signedByte r.1))

/-- `FETCHW` (R92). -/
def execFetchw (s : State) : Host.Outcome State Fault Refusal :=
  let r := fetchWord s
  .next (r.2.respond (.word r.1))

end Sys2Proof.Machine
end

