-- ==== Sys2Proof/Machine/MemoryController.lean ====
section
/-! DEFINITION. The memory-controller operations (40_memory_controller.md): uncharged, with a 32-bit address. -/

namespace Sys2Proof.Machine

/-- `MINIT` (R70). -/
def execMinit (s : State) : Host.Outcome State Fault Refusal :=
  .next ((s.setMem Memory.initialised).respond .none)

/-- `MRD addr32` (R71). -/
def execMrd (addr : Addr32) (s : State) : Host.Outcome State Fault Refusal :=
  .next (s.respond (.byte (memRead s.mem addr)))

/-- `MWR addr32, byte` (R72). -/
def execMwr (addr : Addr32) (v : Byte) (s : State) : Host.Outcome State Fault Refusal :=
  .next ((s.setMem (memWrite s.mem addr v)).respond .none)

end Sys2Proof.Machine
end

