-- ==== Sys2Proof/Machine/ReadWrite.lean ====
section
/-! DEFINITION. The read and write operations (43_read_write.md): charged, with a 16-bit address; no register changes. -/

namespace Sys2Proof.Machine

/-- `RDB addr16` (R100). -/
def execRdb (addr : Addr16) (s : State) : Host.Outcome State Fault Refusal :=
  let r := busRead addr s
  .next (r.2.respond (.byte r.1))

/-- `RDW addr16` (R101). -/
def execRdw (addr : Addr16) (s : State) : Host.Outcome State Fault Refusal :=
  let r := busReadWord addr s
  .next (r.2.respond (.word r.1))

/-- `WRB byte, addr16` (R102). -/
def execWrb (v : Byte) (addr : Addr16) (s : State) : Host.Outcome State Fault Refusal :=
  .next ((busWrite addr v s).respond .none)

/-- `WRW word, addr16` (R103). -/
def execWrw (v : Word) (addr : Addr16) (s : State) : Host.Outcome State Fault Refusal :=
  .next ((busWriteWord addr v s).respond .none)

end Sys2Proof.Machine
end

