-- ==== Sys2Proof/Machine/Stack.lean ====
section
/-! DEFINITION. The stack operations (44_stack.md). Pushes and pops are deliberately not symmetric; the document asks
that the asymmetry be preserved exactly. -/

namespace Sys2Proof.Machine

/-- `STKADDR` (R110). -/
def execStkaddr (s : State) : Host.Outcome State Fault Refusal :=
  .next (s.respond (.word (stackAddress s.sp)))

/-- `PUSHW word` (R111). -/
def execPushw (v : Word) (s : State) : Host.Outcome State Fault Refusal :=
  .next ((pushWord v s).respond .none)

/-- `PUSHPCM1` (R112): `PC` itself is not changed. -/
def execPushpcm1 (s : State) : Host.Outcome State Fault Refusal :=
  .next ((pushWord (s.pc - 1) s).respond .none)

/-- `PUSHPCP1` (R113). -/
def execPushpcp1 (s : State) : Host.Outcome State Fault Refusal :=
  .next ((pushWord (s.pc + 1) s).respond .none)

/-- `PUSHPC` (R114). -/
def execPushpc (s : State) : Host.Outcome State Fault Refusal :=
  .next ((pushWord s.pc s).respond .none)

/-- `PUSHB byte` (R115). -/
def execPushb (v : Byte) (s : State) : Host.Outcome State Fault Refusal :=
  .next ((pushByte v s).respond .none)

/-- `POPB` (R116). -/
def execPopb (s : State) : Host.Outcome State Fault Refusal :=
  let r := popByte s
  .next (r.2.respond (.byte r.1))

/-- `POPW` (R117). -/
def execPopw (s : State) : Host.Outcome State Fault Refusal :=
  let r := popWord s
  .next (r.2.respond (.word r.1))

end Sys2Proof.Machine
end

