-- ==== Sys2Proof/Machine/SystemAccess.lean ====
section
/-! DEFINITION. Reset and register access (41_system_and_register_access.md): uncharged. -/

namespace Sys2Proof.Machine

/-- `RESET` (R80): registers, seven flags and every cell; `P.U` and `cyc` are not written, and the vector is not read. -/
def execReset (s : State) : Host.Outcome State Fault Refusal :=
  .next (((((((s.setPc Config.resetPc).setSp Config.resetSp).setFlags s.p.cleared).setA 0x00).setX 0x00).setY 0x00
    |>.setMem Memory.initialised).respond .none)

/-- `RDREG r` (R81): return one register, change nothing. -/
def readRegisterOp (r : RegName) (s : State) : State := s.respond (readRegister r s)

/-- `RDFLG f` (R83): return one flag, change nothing. -/
def readFlagOp (f : Flag) (s : State) : State := s.respond (.bit (s.p.get f))

/-- `WRFLG f, bit` (R84): write one flag and nothing else. -/
def writeFlagOp (f : Flag) (b : Bool) (s : State) : State := (s.setFlags (s.p.set f b)).respond .none

/-- `RDREG A` (R81). -/
def execRdregA (s : State) : Host.Outcome State Fault Refusal :=
  .next (readRegisterOp .A s)

/-- `RDREG X` (R81). -/
def execRdregX (s : State) : Host.Outcome State Fault Refusal :=
  .next (readRegisterOp .X s)

/-- `RDREG Y` (R81). -/
def execRdregY (s : State) : Host.Outcome State Fault Refusal :=
  .next (readRegisterOp .Y s)

/-- `RDREG SP` (R81). -/
def execRdregSP (s : State) : Host.Outcome State Fault Refusal :=
  .next (readRegisterOp .SP s)

/-- `RDREG PC` (R81). -/
def execRdregPC (s : State) : Host.Outcome State Fault Refusal :=
  .next (readRegisterOp .PC s)

/-- `RDREG P` (R81). -/
def execRdregP (s : State) : Host.Outcome State Fault Refusal :=
  .next (readRegisterOp .P s)

/-- `WRREG A, value` (R82). -/
def execWrregA (v : Byte) (s : State) : Host.Outcome State Fault Refusal :=
  .next ((s.setA v).respond .none)

/-- `WRREG X, value` (R82). -/
def execWrregX (v : Byte) (s : State) : Host.Outcome State Fault Refusal :=
  .next ((s.setX v).respond .none)

/-- `WRREG Y, value` (R82). -/
def execWrregY (v : Byte) (s : State) : Host.Outcome State Fault Refusal :=
  .next ((s.setY v).respond .none)

/-- `WRREG SP, value` (R82). -/
def execWrregSP (v : Byte) (s : State) : Host.Outcome State Fault Refusal :=
  .next ((s.setSp v).respond .none)

/-- `WRREG PC, value` (R82). -/
def execWrregPC (v : Word) (s : State) : Host.Outcome State Fault Refusal :=
  .next ((s.setPc v).respond .none)

/-- `WRREG P, value` (R82): all eight flags. -/
def execWrregP (v : Byte) (s : State) : Host.Outcome State Fault Refusal :=
  .next ((s.setFlags (Flags.fromByte v)).respond .none)

/-- `RDFLG C` (R83). -/
def execRdflgC (s : State) : Host.Outcome State Fault Refusal :=
  .next (readFlagOp .C s)

/-- `RDFLG Z` (R83). -/
def execRdflgZ (s : State) : Host.Outcome State Fault Refusal :=
  .next (readFlagOp .Z s)

/-- `RDFLG I` (R83). -/
def execRdflgI (s : State) : Host.Outcome State Fault Refusal :=
  .next (readFlagOp .I s)

/-- `RDFLG D` (R83). -/
def execRdflgD (s : State) : Host.Outcome State Fault Refusal :=
  .next (readFlagOp .D s)

/-- `RDFLG B` (R83). -/
def execRdflgB (s : State) : Host.Outcome State Fault Refusal :=
  .next (readFlagOp .B s)

/-- `RDFLG U` (R83). -/
def execRdflgU (s : State) : Host.Outcome State Fault Refusal :=
  .next (readFlagOp .U s)

/-- `RDFLG V` (R83). -/
def execRdflgV (s : State) : Host.Outcome State Fault Refusal :=
  .next (readFlagOp .V s)

/-- `RDFLG N` (R83). -/
def execRdflgN (s : State) : Host.Outcome State Fault Refusal :=
  .next (readFlagOp .N s)

/-- `WRFLG C, bit` (R84). -/
def execWrflgC (bit : Bool) (s : State) : Host.Outcome State Fault Refusal :=
  .next (writeFlagOp .C bit s)

/-- `WRFLG Z, bit` (R84). -/
def execWrflgZ (bit : Bool) (s : State) : Host.Outcome State Fault Refusal :=
  .next (writeFlagOp .Z bit s)

/-- `WRFLG I, bit` (R84). -/
def execWrflgI (bit : Bool) (s : State) : Host.Outcome State Fault Refusal :=
  .next (writeFlagOp .I bit s)

/-- `WRFLG D, bit` (R84). -/
def execWrflgD (bit : Bool) (s : State) : Host.Outcome State Fault Refusal :=
  .next (writeFlagOp .D bit s)

/-- `WRFLG B, bit` (R84). -/
def execWrflgB (bit : Bool) (s : State) : Host.Outcome State Fault Refusal :=
  .next (writeFlagOp .B bit s)

/-- `WRFLG U, bit` (R84). -/
def execWrflgU (bit : Bool) (s : State) : Host.Outcome State Fault Refusal :=
  .next (writeFlagOp .U bit s)

/-- `WRFLG V, bit` (R84). -/
def execWrflgV (bit : Bool) (s : State) : Host.Outcome State Fault Refusal :=
  .next (writeFlagOp .V bit s)

/-- `WRFLG N, bit` (R84). -/
def execWrflgN (bit : Bool) (s : State) : Host.Outcome State Fault Refusal :=
  .next (writeFlagOp .N bit s)

end Sys2Proof.Machine
end

