-- ==== Sys2Proof/Machine/Dispatch.lean ====
section
/-! DEFINITION. What each instruction does: one arm per constructor of `Instr`, one call of its meaning. -/

namespace Sys2Proof.Machine

def exec (i : Instr) (s : State) : Host.Outcome State Fault Refusal :=
  match i with
  | .minit => Sys2Proof.Machine.execMinit s
  | .mrd addr => Sys2Proof.Machine.execMrd addr s
  | .mwr addr v => Sys2Proof.Machine.execMwr addr v s
  | .reset => Sys2Proof.Machine.execReset s
  | .rdregA => Sys2Proof.Machine.execRdregA s
  | .rdregX => Sys2Proof.Machine.execRdregX s
  | .rdregY => Sys2Proof.Machine.execRdregY s
  | .rdregSP => Sys2Proof.Machine.execRdregSP s
  | .rdregPC => Sys2Proof.Machine.execRdregPC s
  | .rdregP => Sys2Proof.Machine.execRdregP s
  | .wrregA v => Sys2Proof.Machine.execWrregA v s
  | .wrregX v => Sys2Proof.Machine.execWrregX v s
  | .wrregY v => Sys2Proof.Machine.execWrregY v s
  | .wrregSP v => Sys2Proof.Machine.execWrregSP v s
  | .wrregPC v => Sys2Proof.Machine.execWrregPC v s
  | .wrregP v => Sys2Proof.Machine.execWrregP v s
  | .rdflgC => Sys2Proof.Machine.execRdflgC s
  | .rdflgZ => Sys2Proof.Machine.execRdflgZ s
  | .rdflgI => Sys2Proof.Machine.execRdflgI s
  | .rdflgD => Sys2Proof.Machine.execRdflgD s
  | .rdflgB => Sys2Proof.Machine.execRdflgB s
  | .rdflgU => Sys2Proof.Machine.execRdflgU s
  | .rdflgV => Sys2Proof.Machine.execRdflgV s
  | .rdflgN => Sys2Proof.Machine.execRdflgN s
  | .wrflgC bit => Sys2Proof.Machine.execWrflgC bit s
  | .wrflgZ bit => Sys2Proof.Machine.execWrflgZ bit s
  | .wrflgI bit => Sys2Proof.Machine.execWrflgI bit s
  | .wrflgD bit => Sys2Proof.Machine.execWrflgD bit s
  | .wrflgB bit => Sys2Proof.Machine.execWrflgB bit s
  | .wrflgU bit => Sys2Proof.Machine.execWrflgU bit s
  | .wrflgV bit => Sys2Proof.Machine.execWrflgV bit s
  | .wrflgN bit => Sys2Proof.Machine.execWrflgN bit s
  | .fetchb => Sys2Proof.Machine.execFetchb s
  | .fetchsb => Sys2Proof.Machine.execFetchsb s
  | .fetchw => Sys2Proof.Machine.execFetchw s
  | .rdb addr => Sys2Proof.Machine.execRdb addr s
  | .rdw addr => Sys2Proof.Machine.execRdw addr s
  | .wrb v addr => Sys2Proof.Machine.execWrb v addr s
  | .wrw v addr => Sys2Proof.Machine.execWrw v addr s
  | .stkaddr => Sys2Proof.Machine.execStkaddr s
  | .pushw v => Sys2Proof.Machine.execPushw v s
  | .pushpcm1 => Sys2Proof.Machine.execPushpcm1 s
  | .pushpcp1 => Sys2Proof.Machine.execPushpcp1 s
  | .pushpc => Sys2Proof.Machine.execPushpc s
  | .pushb v => Sys2Proof.Machine.execPushb v s
  | .popb => Sys2Proof.Machine.execPopb s
  | .popw => Sys2Proof.Machine.execPopw s

end Sys2Proof.Machine
end

