-- ==== Sys2Proof/Machine/Step.lean ====
section
/-! DEFINITION. One step: the whole execution of the caller's next command (00_scope.md rules R4 and R5,
30_encoding.md rule R50). -/

namespace Sys2Proof.Machine

/-- Take the next transaction, decode its command word and execute it. A reserved word has no step (R56), and without
a command there is none (R4). -/
def step (s : State) : Host.Outcome State Fault Refusal :=
  match s.pending with
  | [] => .refused .noCommand
  | r :: rest =>
    match decode r.cmd with
    | .error why => .refused (.reservedCommand why)
    | .ok i => exec i (s.take r rest)

/-- The command whose low `nbits` bits are those of `w` becomes the next one the caller issues (log 1). -/
def State.withFetchWord (s : State) (nbits w : Nat) : State :=
  s.issue (BitVec.ofNat 64 (w % 2 ^ nbits))

end Sys2Proof.Machine
end

