-- ==== Sys2Proof/Machine/Assembler.lean ====
section
/-! DEFINITION. The caller's textual form of a command (30_encoding.md rules R58 and R59): from a line of characters to
a command as written (WellFormed.lean), from that to an instruction, and from a program text to the transactions the
caller presents. What R58 leaves open about the layout of a line is log 18. -/

namespace Sys2Proof.Machine

/-- Why a line is no command. -/
inductive SourceError where
  /-- Raised by `parseLine`: the line does not begin with a mnemonic of R55 or a pseudo name of R59. -/
  | unknownMnemonic
  /-- Raised by `parseLine`: an operand is no selector, flag letter or number. -/
  | badOperand
  /-- Raised by `assemble`: not the operands the operation takes. -/
  | wrongOperands
  /-- Raised by `assemble`: "An operand that does not fit its width ... is an assembly error, not a truncation" (R58). -/
  | operandTooWide
  deriving DecidableEq, Repr

/-- A number of a given width, if it fits (R58). -/
def fitted (bits n : Nat) : Except SourceError (BitVec bits) :=
  if n < 2 ^ bits then .ok (BitVec.ofNat bits n) else .error .operandTooWide

/-- A number that is a bit, if it fits (R58). -/
def fittedBit (n : Nat) : Except SourceError Bool :=
  if n < 2 then .ok (n == 1) else .error .operandTooWide

/-- `RDREG r` (R81). -/
def readInstr : RegName → Instr
  | .A => .rdregA
  | .X => .rdregX
  | .Y => .rdregY
  | .SP => .rdregSP
  | .PC => .rdregPC
  | .P => .rdregP

/-- `WRREG r, value` (R82). -/
def writeInstr (n : Nat) : RegName → Except SourceError Instr
  | .A => .wrregA <$> fitted 8 n
  | .X => .wrregX <$> fitted 8 n
  | .Y => .wrregY <$> fitted 8 n
  | .SP => .wrregSP <$> fitted 8 n
  | .PC => .wrregPC <$> fitted 16 n
  | .P => .wrregP <$> fitted 8 n

/-- `RDFLG f` (R83). -/
def readFlagInstr : Flag → Instr
  | .C => .rdflgC
  | .Z => .rdflgZ
  | .I => .rdflgI
  | .D => .rdflgD
  | .B => .rdflgB
  | .U => .rdflgU
  | .V => .rdflgV
  | .N => .rdflgN

/-- `WRFLG f, bit` (R84). -/
def writeFlagInstr (b : Bool) : Flag → Instr
  | .C => .wrflgC b
  | .Z => .wrflgZ b
  | .I => .wrflgI b
  | .D => .wrflgD b
  | .B => .wrflgB b
  | .U => .wrflgU b
  | .V => .wrflgV b
  | .N => .wrflgN b

/-- Assemble a command: each operation with its operands in the order of R58 (`MWR` has the address first, `WRB` and
`WRW` the value first). -/
def assemble (c : Source) : Except SourceError Instr :=
  match c.op, c.operands with
  | .MINIT, [] => .ok .minit
  | .MRD, [.num a] => .mrd <$> fitted 32 a
  | .MWR, [.num a, .num v] => do return .mwr (← fitted 32 a) (← fitted 8 v)
  | .RESET, [] => .ok .reset
  | .RDREG, [.reg r] => .ok (readInstr r)
  | .WRREG, [.reg r, .num v] => writeInstr v r
  | .RDFLG, [.flag f] => .ok (readFlagInstr f)
  | .WRFLG, [.flag f, .num b] => do return writeFlagInstr (← fittedBit b) f
  | .FETCHB, [] => .ok .fetchb
  | .FETCHSB, [] => .ok .fetchsb
  | .FETCHW, [] => .ok .fetchw
  | .RDB, [.num a] => .rdb <$> fitted 16 a
  | .RDW, [.num a] => .rdw <$> fitted 16 a
  | .WRB, [.num v, .num a] => do return .wrb (← fitted 8 v) (← fitted 16 a)
  | .WRW, [.num v, .num a] => do return .wrw (← fitted 16 v) (← fitted 16 a)
  | .STKADDR, [] => .ok .stkaddr
  | .PUSHW, [.num v] => .pushw <$> fitted 16 v
  | .PUSHPCM1, [] => .ok .pushpcm1
  | .PUSHPCP1, [] => .ok .pushpcp1
  | .PUSHPC, [] => .ok .pushpc
  | .PUSHB, [.num v] => .pushb <$> fitted 8 v
  | .POPB, [] => .ok .popb
  | .POPW, [] => .ok .popw
  | _, _ => .error .wrongOperands

/-- The mnemonics of R55. -/
def opOfName (n : List Char) : Option Op :=
  if n = "MINIT".toList then some .MINIT
  else if n = "MRD".toList then some .MRD
  else if n = "MWR".toList then some .MWR
  else if n = "RESET".toList then some .RESET
  else if n = "RDREG".toList then some .RDREG
  else if n = "WRREG".toList then some .WRREG
  else if n = "RDFLG".toList then some .RDFLG
  else if n = "WRFLG".toList then some .WRFLG
  else if n = "FETCHB".toList then some .FETCHB
  else if n = "FETCHSB".toList then some .FETCHSB
  else if n = "FETCHW".toList then some .FETCHW
  else if n = "RDB".toList then some .RDB
  else if n = "RDW".toList then some .RDW
  else if n = "WRB".toList then some .WRB
  else if n = "WRW".toList then some .WRW
  else if n = "STKADDR".toList then some .STKADDR
  else if n = "PUSHW".toList then some .PUSHW
  else if n = "PUSHPCM1".toList then some .PUSHPCM1
  else if n = "PUSHPCP1".toList then some .PUSHPCP1
  else if n = "PUSHPC".toList then some .PUSHPC
  else if n = "PUSHB".toList then some .PUSHB
  else if n = "POPB".toList then some .POPB
  else if n = "POPW".toList then some .POPW
  else none

/-- The value of a decimal or hexadecimal digit. -/
def digitValue (c : Char) : Option Nat :=
  if '0' ≤ c ∧ c ≤ '9' then some (c.toNat - '0'.toNat)
  else if 'a' ≤ c ∧ c ≤ 'f' then some (c.toNat - 'a'.toNat + 10)
  else if 'A' ≤ c ∧ c ≤ 'F' then some (c.toNat - 'A'.toNat + 10)
  else none

/-- Digits of a base, most significant first, after the value read so far. -/
def digitsFrom (base : Nat) : Nat → List Char → Option Nat
  | acc, [] => some acc
  | acc, c :: cs =>
    match digitValue c with
    | some d => if d < base then digitsFrom base (acc * base + d) cs else none
    | none => none

/-- A number: `0x` hexadecimal, or decimal (R58). -/
def parseNumber : List Char → Option Nat
  | [] => none
  | ['0', 'x'] => none
  | '0' :: 'x' :: cs => digitsFrom 16 0 cs
  | cs => digitsFrom 10 0 cs

/-- The register selectors and flag letters of R58. -/
def parseName (n : List Char) : Option Operand :=
  match n with
  | ['A'] => some (.reg .A)
  | ['X'] => some (.reg .X)
  | ['Y'] => some (.reg .Y)
  | ['S', 'P'] => some (.reg .SP)
  | ['P', 'C'] => some (.reg .PC)
  | ['P'] => some (.reg .P)
  | ['C'] => some (.flag .C)
  | ['Z'] => some (.flag .Z)
  | ['I'] => some (.flag .I)
  | ['D'] => some (.flag .D)
  | ['B'] => some (.flag .B)
  | ['U'] => some (.flag .U)
  | ['V'] => some (.flag .V)
  | ['N'] => some (.flag .N)
  | _ => none

/-- One operand: a name or a number. -/
def parseOperand (cs : List Char) : Except SourceError Operand :=
  match parseName cs with
  | some o => .ok o
  | none =>
    match parseNumber cs with
    | some n => .ok (.num n)
    | none => .error .badOperand

/-- Without the blanks at both ends. -/
def trimBlanks (cs : List Char) : List Char :=
  ((cs.dropWhile (· == ' ')).reverse.dropWhile (· == ' ')).reverse

/-- The pieces between commas. -/
def splitCommas : List Char → List (List Char)
  | [] => [[]]
  | c :: cs =>
    match splitCommas cs with
    | [] => [[c]]
    | p :: ps => if c = ',' then [] :: p :: ps else (c :: p) :: ps

/-- The operands of a line, after the mnemonic. -/
def parseOperands (cs : List Char) : Except SourceError (List Operand) :=
  if cs = [] then .ok [] else (splitCommas cs).mapM fun p => parseOperand (trimBlanks p)

/-- What a line of a program text asks of the caller: issue a command, or set its own budget (R59). -/
inductive Line where
  | command (i : Instr)
  | setCyc (n : Int)
  deriving DecidableEq, Repr

/-- The number of `SETCYC n`, any integer (R19 item 4, R59). -/
def parseBudget (cs : List Char) : Except SourceError Int :=
  match cs with
  | '-' :: ds => match parseNumber ds with
    | some n => .ok (-(n : Int))
    | none => .error .badOperand
  | ds => match parseNumber ds with
    | some n => .ok n
    | none => .error .badOperand

/-- A line without its comment and outer blanks (R58: a `;` starts a comment). -/
def codeOfLine (cs : List Char) : List Char :=
  trimBlanks (cs.takeWhile (· != ';'))

/-- One line of a program text (R58, R59): nothing, a command, or one of the pseudo names `SETPC` and `SETCYC`. -/
def parseLine (cs : List Char) : Except SourceError (Option Line) :=
  let code := codeOfLine cs
  let name := code.takeWhile (· != ' ')
  let rest := trimBlanks (code.dropWhile (· != ' '))
  if code = [] then .ok none
  else if name = "SETCYC".toList then (some ∘ .setCyc) <$> parseBudget rest
  else if name = "SETPC".toList then do
    let os ← parseOperands rest
    return some (.command (← assemble ⟨.WRREG, .reg .PC :: os⟩))
  else
    match opOfName name with
    | none => .error .unknownMnemonic
    | some op => do
      let os ← parseOperands rest
      return some (.command (← assemble ⟨op, os⟩))

/-- The transactions a program text stands for, each command carrying the budget the caller has set since the one
before it, if it set one. A budget set after the last command meets no transaction. -/
def requestsFrom : Option Int → List Line → List Request
  | _, [] => []
  | _, .setCyc n :: rest => requestsFrom (some n) rest
  | budget, .command i :: rest => ⟨encode i, budget⟩ :: requestsFrom none rest

/-- Assemble a program text, a line at a time. -/
def assembleProgram (lines : List (List Char)) : Except SourceError (List Request) := do
  let ls ← lines.mapM parseLine
  return requestsFrom none (ls.filterMap id)

end Sys2Proof.Machine
end

