-- ==== Sys2Proof/Safety.lean ====
section
/-! DEFINITION. The terms the statements use: the invariant of the state, the cost table (70_reset_and_hazards.md rule
R164), the access table (10_state.md rule R21), the cells an operation addresses (20_memory.md rule R44), and sequences
of operations (rule R165). Each table is written from its own rule of the spec, not from the meanings. -/

namespace Sys2Proof.Machine

/-- The invariant: the memory's list is in its canonical form, so it holds exactly the cells of the array that are not
cleared, each once (R18, R30). -/
def State.Inv (s : State) : Prop := s.mem.wf = true

/-- The registers and flags of R10, as places an operation may write. -/
inductive Place where
  | A | X | Y | PC | SP
  | flag (f : Flag)
  deriving DecidableEq, Repr

/-- A place holds the same value in two states. -/
def Place.same (pl : Place) (s t : State) : Prop :=
  match pl with
  | .A => t.a = s.a
  | .X => t.x = s.x
  | .Y => t.y = s.y
  | .PC => t.pc = s.pc
  | .SP => t.sp = s.sp
  | .flag f => t.p.get f = s.p.get f

/-- The same state with other general registers and flags. -/
def State.withRegisters (a x y : Byte) (p : Flags) (s : State) : State :=
  { s with a := a, x := x, y := y, p := p }

/-- A sequence of operations, each from the state the one before it left (R165). -/
def execAll : List Instr → State → Host.Outcome State Fault Refusal
  | [], s => .next s
  | i :: is, s =>
    match exec i s with
    | .next t => execAll is t
    | .fault r => .fault r
    | .refused r => .refused r

/-- The caller issues the command words of these operations, in this order, before those it will issue anyway, and
leaves its budget as it is between them. -/
def State.issueAll (is : List Instr) (s : State) : State :=
  { s with pending := is.map (fun i => ⟨encode i, Option.none⟩) ++ s.pending }

end Sys2Proof.Machine

namespace Sys2Proof
open Sys2Proof.Machine

/-- The cost table of R164: what each operation subtracts from `cyc`. -/
def Instr.cost : Instr → Int
  | .minit | .mrd _ | .mwr _ _ => 0
  | .reset => 0
  | .rdregA | .rdregX | .rdregY | .rdregSP | .rdregPC | .rdregP => 0
  | .wrregA _ | .wrregX _ | .wrregY _ | .wrregSP _ | .wrregPC _ | .wrregP _ => 0
  | .rdflgC | .rdflgZ | .rdflgI | .rdflgD | .rdflgB | .rdflgU | .rdflgV | .rdflgN => 0
  | .wrflgC _ | .wrflgZ _ | .wrflgI _ | .wrflgD _ | .wrflgB _ | .wrflgU _ | .wrflgV _ | .wrflgN _ => 0
  | .stkaddr => 0
  | .fetchb | .fetchsb => 1
  | .fetchw => 2
  | .rdb _ => 1
  | .rdw _ => 2
  | .wrb _ _ => 1
  | .wrw _ _ => 2
  | .pushw _ | .pushpc | .pushpcm1 | .pushpcp1 => 2
  | .pushb _ => 2
  | .popb => 2
  | .popw => 2

/-- The access table of R21, the registers and flags each operation writes. -/
def Instr.writes : Instr → Place → Bool
  | .reset, pl => pl != .flag .U
  | .wrregA _, pl => pl == .A
  | .wrregX _, pl => pl == .X
  | .wrregY _, pl => pl == .Y
  | .wrregSP _, pl => pl == .SP
  | .wrregPC _, pl => pl == .PC
  | .wrregP _, .flag _ => true
  | .wrregP _, _ => false
  | .wrflgC _, pl => pl == .flag .C
  | .wrflgZ _, pl => pl == .flag .Z
  | .wrflgI _, pl => pl == .flag .I
  | .wrflgD _, pl => pl == .flag .D
  | .wrflgB _, pl => pl == .flag .B
  | .wrflgU _, pl => pl == .flag .U
  | .wrflgV _, pl => pl == .flag .V
  | .wrflgN _, pl => pl == .flag .N
  | .fetchb, pl | .fetchsb, pl | .fetchw, pl => pl == .PC
  | .pushw _, pl | .pushpc, pl | .pushpcm1, pl | .pushpcp1, pl | .pushb _, pl | .popb, pl | .popw, pl => pl == .SP
  | .minit, _ | .mrd _, _ | .mwr _ _, _ => false
  | .rdregA, _ | .rdregX, _ | .rdregY, _ | .rdregSP, _ | .rdregPC, _ | .rdregP, _ => false
  | .rdflgC, _ | .rdflgZ, _ | .rdflgI, _ | .rdflgD, _ | .rdflgB, _ | .rdflgU, _ | .rdflgV, _ | .rdflgN, _ => false
  | .rdb _, _ | .rdw _, _ | .wrb _ _, _ | .wrw _ _, _ | .stkaddr, _ => false

/-- The access table of R21, the registers and flags each operation reads. -/
def Instr.reads : Instr → Place → Bool
  | .rdregA, pl => pl == .A
  | .rdregX, pl => pl == .X
  | .rdregY, pl => pl == .Y
  | .rdregSP, pl => pl == .SP
  | .rdregPC, pl => pl == .PC
  | .rdregP, .flag _ => true
  | .rdregP, _ => false
  | .rdflgC, pl => pl == .flag .C
  | .rdflgZ, pl => pl == .flag .Z
  | .rdflgI, pl => pl == .flag .I
  | .rdflgD, pl => pl == .flag .D
  | .rdflgB, pl => pl == .flag .B
  | .rdflgU, pl => pl == .flag .U
  | .rdflgV, pl => pl == .flag .V
  | .rdflgN, pl => pl == .flag .N
  | .fetchb, pl | .fetchsb, pl | .fetchw, pl => pl == .PC
  | .stkaddr, pl | .pushw _, pl | .pushb _, pl | .popb, pl | .popw, pl => pl == .SP
  | .pushpc, pl | .pushpcm1, pl | .pushpcp1, pl => pl == .PC || pl == .SP
  | .minit, _ | .mrd _, _ | .mwr _ _, _ | .reset, _ => false
  | .wrregA _, _ | .wrregX _, _ | .wrregY _, _ | .wrregSP _, _ | .wrregPC _, _ | .wrregP _, _ => false
  | .wrflgC _, _ | .wrflgZ _, _ | .wrflgI _, _ | .wrflgD _, _ | .wrflgB _, _ | .wrflgU _, _ | .wrflgV _, _ | .wrflgN _, _ => false
  | .rdb _, _ | .rdw _, _ | .wrb _ _, _ | .wrw _ _, _ => false

/-- The cells an operation stores to (R44, and R45 for the two that write every cell): cell numbers, from the state
before the operation. -/
def Instr.storesTo (i : Instr) (s : State) (n : Nat) : Bool :=
  match i with
  | .minit | .reset => true
  | .mwr a _ => n == a.toNat
  | .wrb _ a => n == a.toNat
  | .wrw _ a => n == a.toNat || n == (nextAddress a).toNat
  | .pushb _ => n == (stackAddress s.sp).toNat
  | .pushw _ | .pushpc | .pushpcm1 | .pushpcp1 =>
    n == (stackAddress s.sp).toNat || n == (stackAddress (s.sp - 1)).toNat
  | .mrd _ | .rdb _ | .rdw _ | .fetchb | .fetchsb | .fetchw | .stkaddr | .popb | .popw => false
  | .rdregA | .rdregX | .rdregY | .rdregSP | .rdregPC | .rdregP => false
  | .wrregA _ | .wrregX _ | .wrregY _ | .wrregSP _ | .wrregPC _ | .wrregP _ => false
  | .rdflgC | .rdflgZ | .rdflgI | .rdflgD | .rdflgB | .rdflgU | .rdflgV | .rdflgN => false
  | .wrflgC _ | .wrflgZ _ | .wrflgI _ | .wrflgD _ | .wrflgB _ | .wrflgU _ | .wrflgV _ | .wrflgN _ => false

/-- The cells an operation reads (R44). -/
def Instr.loadsFrom (i : Instr) (s : State) (n : Nat) : Bool :=
  match i with
  | .mrd a => n == a.toNat
  | .rdb a => n == a.toNat
  | .rdw a => n == a.toNat || n == (nextAddress a).toNat
  | .fetchb | .fetchsb => n == s.pc.toNat
  | .fetchw => n == s.pc.toNat || n == (nextAddress s.pc).toNat
  | .popb => n == (stackAddress (s.sp + 1)).toNat
  | .popw => n == (popWordAddress s.sp).toNat || n == (nextAddress (popWordAddress s.sp)).toNat
  | .minit | .reset | .mwr _ _ | .wrb _ _ | .wrw _ _ | .stkaddr => false
  | .pushb _ | .pushw _ | .pushpc | .pushpcm1 | .pushpcp1 => false
  | .rdregA | .rdregX | .rdregY | .rdregSP | .rdregPC | .rdregP => false
  | .wrregA _ | .wrregX _ | .wrregY _ | .wrregSP _ | .wrregPC _ | .wrregP _ => false
  | .rdflgC | .rdflgZ | .rdflgI | .rdflgD | .rdflgB | .rdflgU | .rdflgV | .rdflgN => false
  | .wrflgC _ | .wrflgZ _ | .wrflgI _ | .wrflgD _ | .wrflgB _ | .wrflgU _ | .wrflgV _ | .wrflgN _ => false

/-- The reset and register access operations (the family of 41_system_and_register_access.md). -/
def Instr.accessesRegisters : Instr → Bool
  | .reset => true
  | .rdregA | .rdregX | .rdregY | .rdregSP | .rdregPC | .rdregP => true
  | .wrregA _ | .wrregX _ | .wrregY _ | .wrregSP _ | .wrregPC _ | .wrregP _ => true
  | .rdflgC | .rdflgZ | .rdflgI | .rdflgD | .rdflgB | .rdflgU | .rdflgV | .rdflgN => true
  | .wrflgC _ | .wrflgZ _ | .wrflgI _ | .wrflgD _ | .wrflgB _ | .wrflgU _ | .wrflgV _ | .wrflgN _ => true
  | .minit | .mrd _ | .mwr _ _ => false
  | .fetchb | .fetchsb | .fetchw => false
  | .rdb _ | .rdw _ | .wrb _ _ | .wrw _ _ => false
  | .stkaddr | .pushw _ | .pushpc | .pushpcm1 | .pushpcp1 | .pushb _ | .popb | .popw => false

/-- The operation's command word has these fields: `CMD = OP * 2^56 + SEL * 2^48 + ADDR * 2^16 + DATA` (R51). -/
def Instr.HasWord (i : Instr) (op sel addr data : Nat) : Prop :=
  (encode i).toNat = op * 2 ^ 56 + sel * 2 ^ 48 + addr * 2 ^ 16 + data

end Sys2Proof
end

