-- ==== Sys2Proof/Certificates/Slice0/Obligations.lean ====
section
/-! DEFINITION. The statements about the model, for the provers. A cell of the memory is read with `Memory.cell`; the
next state is written out field by field, so each statement of an operation's effect is also its frame. "D<n>" is a
decision of spec/92_eei_decisions.md, the spec's own choice; "log <n>" is notes/assumptions/<n>.md. Every clause about a
command word (`Instr.HasWord`, `encode`, `decode`) rests on decisions D2, D3 and D4 (log 8). -/

section Statements
open Sys2Proof Sys2Proof.Machine

/-! ### The memory-controller operations (40_memory_controller.md) -/

/-- R70: `MINIT` fills every cell with 0 and touches nothing else. -/
def Obligations.MinitClearsEveryCell : Prop :=
  Instr.minit.HasWord 0x10 0 0 0 ∧
  ∀ s : State, ∃ m : Memory,
    exec .minit s = .next { s with mem := m, response := .none } ∧ ∀ n, m.cell n = 0x00

/-- R71: `MRD` returns the cell in range and 0x00 out of range, without aliasing, and changes no state. -/
def Obligations.MrdReturnsCellOrZero : Prop :=
  ∀ (s : State) (a : Addr32),
    (Instr.mrd a).HasWord 0x11 0 a.toNat 0 ∧
    exec (.mrd a) s =
      .next { s with response := .byte (if a.toNat < 65536 then s.mem.cell a.toNat else 0x00) }

/-- R72: `MWR` writes exactly one cell in range and nothing out of range; the law in that rule (§8 of the document, E1
and E2 of 95_test_vectors.md): what it wrote in range, `MRD` returns; out of range, `MRD` returns 0 and the memory is the
same memory. -/
def Obligations.MwrWritesOneCellOrNothing : Prop :=
  ∀ (s : State) (a : Addr32) (v : Byte), s.Inv →
    (Instr.mwr a v).HasWord 0x12 0 a.toNat v.toNat ∧
    (∃ m : Memory, exec (.mwr a v) s = .next { s with mem := m, response := .none } ∧
      ∀ n, m.cell n = if n = a.toNat ∧ a.toNat < 65536 then v else s.mem.cell n) ∧
    ∃ t, execAll [.mwr a v, .mrd a] s = .next t ∧
      (a.toNat < 65536 → t.response = .byte v) ∧
      (65536 ≤ a.toNat → t.response = .byte 0x00 ∧ t.mem = s.mem)

/-- R31, R32 and R46 for the two primitives: the bounded read, the bounded write, and the write's frame. -/
def Obligations.BoundedAccessOfTheArray : Prop :=
  ∀ (m : Memory) (a : Addr32) (v : Byte), m.wf = true →
    memRead m a = (if a.toNat < 65536 then m.cell a.toNat else 0x00) ∧
    (a.toNat < 65536 → (memWrite m a v).cell a.toNat = v ∧
      ∀ b, b ≠ a.toNat → (memWrite m a v).cell b = m.cell b) ∧
    (65536 ≤ a.toNat → ∀ b, (memWrite m a v).cell b = m.cell b)

/-- Derived from R18 and R30 (the array is 65536 cells and nothing else): two memories in canonical form with the same
cells are the same data. -/
def Obligations.EqualCellsMakeEqualMemories : Prop :=
  ∀ m₁ m₂ : Memory, m₁.wf = true → m₂.wf = true → (∀ n, n < 65536 → m₁.cell n = m₂.cell n) → m₁ = m₂

/-! ### Reset and register access (41_system_and_register_access.md) -/

/-- R80: the state after `RESET`; `P.U` and `cyc` are not written, the status byte is 0x20 * `P.U`, a second `RESET`
changes nothing, and the state after depends on nothing but what it leaves alone. -/
def Obligations.ResetWritesAllButUnused : Prop :=
  Instr.reset.HasWord 0x20 0 0 0 ∧
  ∀ s : State, ∃ m : Memory, ∃ t : State,
    exec .reset s = .next t ∧
    t = { a := 0x00, x := 0x00, y := 0x00, pc := 0xFFFC, sp := 0xFF,
          p := ⟨false, false, false, false, false, s.p.u, false, false⟩,
          mem := m, cyc := s.cyc, response := .none, pending := s.pending } ∧
    (∀ n, m.cell n = 0x00) ∧
    t.p.toByte.toNat = 0x20 * s.p.u.toNat ∧
    exec .reset t = .next t ∧
    ∀ s' : State, s'.p.u = s.p.u → s'.cyc = s.cyc → s'.pending = s.pending → exec .reset s' = .next t

/-- R81 (the operation's shape and its zero cost are decision D13, log 11; the byte `P` rests on the bit order D10,
log 5): `RDREG` returns the selected register, for `P` the status byte, and changes no state. -/
def Obligations.RdregReturnsTheRegister : Prop :=
  (∀ s : State,
    exec .rdregA s = .next { s with response := .byte s.a } ∧
    exec .rdregX s = .next { s with response := .byte s.x } ∧
    exec .rdregY s = .next { s with response := .byte s.y } ∧
    exec .rdregSP s = .next { s with response := .byte s.sp } ∧
    exec .rdregPC s = .next { s with response := .word s.pc } ∧
    ∃ b : Byte, exec .rdregP s = .next { s with response := .byte b } ∧
      b.toNat = s.p.c.toNat + 2 * s.p.z.toNat + 4 * s.p.i.toNat + 8 * s.p.d.toNat + 16 * s.p.b.toNat +
        32 * s.p.u.toNat + 64 * s.p.v.toNat + 128 * s.p.n.toNat) ∧
  Instr.rdregA.HasWord 0x21 0 0 0 ∧ Instr.rdregX.HasWord 0x21 1 0 0 ∧ Instr.rdregY.HasWord 0x21 2 0 0 ∧
  Instr.rdregSP.HasWord 0x21 3 0 0 ∧ Instr.rdregPC.HasWord 0x21 4 0 0 ∧ Instr.rdregP.HasWord 0x21 5 0 0 ∧
  ∀ f : Fields, f.op = 0x21 → 6 ≤ f.sel.toNat → decodeFields f = .error .selectorOutOfRange

/-- R82 (decision D13, log 11; `P` rests on D10, log 5): `WRREG` writes the selected register only; `P` writes all
eight flags. -/
def Obligations.WrregWritesTheRegisterOnly : Prop :=
  (∀ (s : State) (v : Byte) (w : Word),
    exec (.wrregA v) s = .next { s with a := v, response := .none } ∧
    exec (.wrregX v) s = .next { s with x := v, response := .none } ∧
    exec (.wrregY v) s = .next { s with y := v, response := .none } ∧
    exec (.wrregSP v) s = .next { s with sp := v, response := .none } ∧
    exec (.wrregPC w) s = .next { s with pc := w, response := .none } ∧
    exec (.wrregP v) s =
      .next { s with
        p := { c := v.getLsbD 0, z := v.getLsbD 1, i := v.getLsbD 2, d := v.getLsbD 3,
               b := v.getLsbD 4, u := v.getLsbD 5, v := v.getLsbD 6, n := v.getLsbD 7 },
        response := .none }) ∧
  (∀ (v : Byte) (w : Word),
    (Instr.wrregA v).HasWord 0x22 0 0 v.toNat ∧ (Instr.wrregX v).HasWord 0x22 1 0 v.toNat ∧
    (Instr.wrregY v).HasWord 0x22 2 0 v.toNat ∧ (Instr.wrregSP v).HasWord 0x22 3 0 v.toNat ∧
    (Instr.wrregPC w).HasWord 0x22 4 0 w.toNat ∧ (Instr.wrregP v).HasWord 0x22 5 0 v.toNat) ∧
  ∀ f : Fields, f.op = 0x22 → 6 ≤ f.sel.toNat → decodeFields f = .error .selectorOutOfRange

/-- R83 (decision D13, log 11; the last clause rests on D10, log 5): `RDFLG f` returns the flag, changes no state, and
returns bit `f` of what `RDREG P` returns. -/
def Obligations.RdflgReturnsTheFlag : Prop :=
  (∀ s : State,
    exec .rdflgC s = .next { s with response := .bit s.p.c } ∧
    exec .rdflgZ s = .next { s with response := .bit s.p.z } ∧
    exec .rdflgI s = .next { s with response := .bit s.p.i } ∧
    exec .rdflgD s = .next { s with response := .bit s.p.d } ∧
    exec .rdflgB s = .next { s with response := .bit s.p.b } ∧
    exec .rdflgU s = .next { s with response := .bit s.p.u } ∧
    exec .rdflgV s = .next { s with response := .bit s.p.v } ∧
    exec .rdflgN s = .next { s with response := .bit s.p.n }) ∧
  Instr.rdflgC.HasWord 0x23 0 0 0 ∧ Instr.rdflgZ.HasWord 0x23 1 0 0 ∧ Instr.rdflgI.HasWord 0x23 2 0 0 ∧
  Instr.rdflgD.HasWord 0x23 3 0 0 ∧ Instr.rdflgB.HasWord 0x23 4 0 0 ∧ Instr.rdflgU.HasWord 0x23 5 0 0 ∧
  Instr.rdflgV.HasWord 0x23 6 0 0 ∧ Instr.rdflgN.HasWord 0x23 7 0 0 ∧
  (∀ f : Fields, f.op = 0x23 → 8 ≤ f.sel.toNat → decodeFields f = .error .selectorOutOfRange) ∧
  ∀ (s : State) (f : Flag), ∃ (t u : State) (byte : Byte),
    exec .rdregP s = .next t ∧ t.response = .byte byte ∧
    exec (readFlagInstr f) s = .next u ∧ u.response = .bit (byte.getLsbD (Config.flagBit f))

/-- R84 (decision D13, log 11): `WRFLG f` writes the one flag; the other seven and everything else stay. -/
def Obligations.WrflgWritesTheFlagOnly : Prop :=
  (∀ (s : State) (b : Bool),
    exec (.wrflgC b) s = .next { s with p := { s.p with c := b }, response := .none } ∧
    exec (.wrflgZ b) s = .next { s with p := { s.p with z := b }, response := .none } ∧
    exec (.wrflgI b) s = .next { s with p := { s.p with i := b }, response := .none } ∧
    exec (.wrflgD b) s = .next { s with p := { s.p with d := b }, response := .none } ∧
    exec (.wrflgB b) s = .next { s with p := { s.p with b := b }, response := .none } ∧
    exec (.wrflgU b) s = .next { s with p := { s.p with u := b }, response := .none } ∧
    exec (.wrflgV b) s = .next { s with p := { s.p with v := b }, response := .none } ∧
    exec (.wrflgN b) s = .next { s with p := { s.p with n := b }, response := .none }) ∧
  (∀ b : Bool,
    (Instr.wrflgC b).HasWord 0x24 0 0 b.toNat ∧ (Instr.wrflgZ b).HasWord 0x24 1 0 b.toNat ∧
    (Instr.wrflgI b).HasWord 0x24 2 0 b.toNat ∧ (Instr.wrflgD b).HasWord 0x24 3 0 b.toNat ∧
    (Instr.wrflgB b).HasWord 0x24 4 0 b.toNat ∧ (Instr.wrflgU b).HasWord 0x24 5 0 b.toNat ∧
    (Instr.wrflgV b).HasWord 0x24 6 0 b.toNat ∧ (Instr.wrflgN b).HasWord 0x24 7 0 b.toNat) ∧
  ∀ f : Fields, f.op = 0x24 → 8 ≤ f.sel.toNat → decodeFields f = .error .selectorOutOfRange

/-- R15 (the bit order is decision D10, log 5): `WRREG P, b` then `RDREG P` returns `b`, and writing back what `RDREG P`
returned changes no flag. -/
def Obligations.StatusByteRoundTrips : Prop :=
  (∀ (s : State) (v : Byte), ∃ t, execAll [.wrregP v, .rdregP] s = .next t ∧ t.response = .byte v) ∧
  ∀ s : State, ∃ (t u : State) (v : Byte), exec .rdregP s = .next t ∧ t.response = .byte v ∧
    exec (.wrregP v) t = .next u ∧ u.p = s.p

/-! ### The fetch operations (42_fetch.md) -/

/-- R90: `FETCHB` returns the byte at `PC`, moves `PC` by one modulo 65536 and charges 1. -/
def Obligations.FetchbReadsAndAdvances : Prop :=
  Instr.fetchb.HasWord 0x30 0 0 0 ∧
  ∀ s : State,
    exec .fetchb s =
      .next { s with
        pc := BitVec.ofNat 16 ((s.pc.toNat + 1) % 65536), cyc := s.cyc - 1,
        response := .byte (s.mem.cell s.pc.toNat) }

/-- R91 (the coding of the result on the response word is D5, log 9): `FETCHSB` is `FETCHB` with the byte read as a
two's-complement number. -/
def Obligations.FetchsbReturnsASignedByte : Prop :=
  Instr.fetchsb.HasWord 0x31 0 0 0 ∧
  ∀ s : State, ∃ r : Response,
    exec .fetchsb s =
      .next { s with pc := BitVec.ofNat 16 ((s.pc.toNat + 1) % 65536), cyc := s.cyc - 1, response := r } ∧
    (let b := (s.mem.cell s.pc.toNat).toNat
     r.value = some (if b < 128 then (b : Int) else (b : Int) - 256) ∧
     r.toRes.toNat = (if b < 128 then b else b + 0xFF00))

/-- R92 (the wrap of the high byte's address is decision D8, log 6): `FETCHW` returns the little-endian word at `PC`,
moves `PC` by two modulo 65536 and charges 2. -/
def Obligations.FetchwReadsAWordAndAdvances : Prop :=
  Instr.fetchw.HasWord 0x32 0 0 0 ∧
  ∀ s : State, ∃ w : Word,
    exec .fetchw s =
      .next { s with
        pc := BitVec.ofNat 16 ((s.pc.toNat + 2) % 65536), cyc := s.cyc - 2, response := .word w } ∧
    w.toNat = (s.mem.cell s.pc.toNat).toNat + 256 * (s.mem.cell ((s.pc.toNat + 1) % 65536)).toNat

/-- R92, corner case 3: `FETCHW` equals two `FETCHB` in state, result and total cost. -/
def Obligations.FetchwIsTwoFetchb : Prop :=
  ∀ s : State, ∃ (t₁ t₂ t : State) (lo hi : Byte),
    exec .fetchb s = .next t₁ ∧ t₁.response = .byte lo ∧
    exec .fetchb t₁ = .next t₂ ∧ t₂.response = .byte hi ∧
    exec .fetchw s = .next t ∧ t = { t₂ with response := .word (hi ++ lo) }

/-- R42: a byte stored at `PC`, by the processor port, the memory-controller port or a push, is what the next fetch
returns. -/
def Obligations.StoreIsSeenByTheNextFetch : Prop :=
  ∀ (s : State) (v : Byte), s.Inv →
    (∃ t, execAll [.wrb v s.pc, .fetchb] s = .next t ∧ t.response = .byte v) ∧
    (∃ t, execAll [.mwr (s.pc.setWidth 32) v, .fetchb] s = .next t ∧ t.response = .byte v) ∧
    (s.pc.toNat = 256 + s.sp.toNat → ∃ t, execAll [.pushb v, .fetchb] s = .next t ∧ t.response = .byte v)

/-! ### The read and write operations (43_read_write.md) -/

/-- R100: `RDB` returns the cell, charges 1 and changes no register. -/
def Obligations.RdbReturnsTheCell : Prop :=
  ∀ (s : State) (a : Addr16),
    (Instr.rdb a).HasWord 0x40 0 a.toNat 0 ∧
    exec (.rdb a) s = .next { s with cyc := s.cyc - 1, response := .byte (s.mem.cell a.toNat) }

/-- R101 (the wrap at 0xFFFF is decision D7, log 6): `RDW` returns the little-endian word, charges 2 in total and
changes no register. -/
def Obligations.RdwReturnsTheWord : Prop :=
  ∀ (s : State) (a : Addr16), ∃ w : Word,
    (Instr.rdw a).HasWord 0x41 0 a.toNat 0 ∧
    exec (.rdw a) s = .next { s with cyc := s.cyc - 2, response := .word w } ∧
    w.toNat = (s.mem.cell a.toNat).toNat + 256 * (s.mem.cell ((a.toNat + 1) % 65536)).toNat

/-- R102: `WRB` writes exactly one cell, charges 1 and changes no register. -/
def Obligations.WrbWritesOneCell : Prop :=
  ∀ (s : State) (v : Byte) (a : Addr16), s.Inv →
    (Instr.wrb v a).HasWord 0x42 0 a.toNat v.toNat ∧
    ∃ m : Memory, exec (.wrb v a) s = .next { s with mem := m, cyc := s.cyc - 1, response := .none } ∧
      ∀ n, m.cell n = if n = a.toNat then v else s.mem.cell n

/-- R103 (the wrap at 0xFFFF is decision D7, log 6): `WRW` writes the low byte at the address and the high byte at the
next, charges 2 and changes no register. -/
def Obligations.WrwWritesTwoCells : Prop :=
  ∀ (s : State) (v : Word) (a : Addr16), s.Inv →
    (Instr.wrw v a).HasWord 0x43 0 a.toNat v.toNat ∧
    ∃ m : Memory, exec (.wrw v a) s = .next { s with mem := m, cyc := s.cyc - 2, response := .none } ∧
      ∀ n, m.cell n =
        if n = a.toNat then BitVec.ofNat 8 (v.toNat % 256)
        else if n = (a.toNat + 1) % 65536 then BitVec.ofNat 8 (v.toNat / 256)
        else s.mem.cell n

/-- R103, corner case 3, and R34: `WRW` then `RDW` returns the word for every address, and a byte read sees its low byte
at the address and its high byte at the next. -/
def Obligations.WrwThenReadsReturnItsBytes : Prop :=
  ∀ (s : State) (v : Word) (a : Addr16), s.Inv →
    (∃ t, execAll [.wrw v a, .rdw a] s = .next t ∧ t.response = .word v) ∧
    (∃ t, execAll [.wrw v a, .rdb a] s = .next t ∧ t.response = .byte (v.setWidth 8)) ∧
    (∃ t, execAll [.wrw v a, .rdb (a + 1)] s = .next t ∧ t.response = .byte (v.extractLsb' 8 8))

/-- R101 and R103, corner cases 3 and 4: a word access equals its two byte accesses in state, result and cost. -/
def Obligations.WordAccessIsTwoByteAccesses : Prop :=
  ∀ (s : State) (a : Addr16),
    (∃ (t₁ t₂ : State) (lo hi : Byte),
      exec (.rdb a) s = .next t₁ ∧ t₁.response = .byte lo ∧
      exec (.rdb (a + 1)) t₁ = .next t₂ ∧ t₂.response = .byte hi ∧
      exec (.rdw a) s = .next { t₂ with response := .word (hi ++ lo) }) ∧
    ∀ v : Word, ∃ t,
      execAll [.wrb (v.setWidth 8) a, .wrb (v.extractLsb' 8 8) (a + 1)] s = .next t ∧
      exec (.wrw v a) s = .next t

/-! ### The stack operations (44_stack.md) -/

/-- R110: `STKADDR` returns `0x0100 | SP`, which is in the stack page, and changes nothing. -/
def Obligations.StkaddrReturnsThePageAddress : Prop :=
  Instr.stkaddr.HasWord 0x50 0 0 0 ∧
  ∀ s : State, ∃ w : Word,
    exec .stkaddr s = .next { s with response := .word w } ∧ w = 0x0100 ||| s.sp.setWidth 16 ∧
    w.toNat = 256 + s.sp.toNat ∧ 0x0100 ≤ w.toNat ∧ w.toNat ≤ 0x01FF

/-- What R111 says of pushing a word `v`, as an instruction `i` does it: the high byte at the stack address, the low byte
at the next lower one modulo 256, `SP` down by two modulo 256, a charge of 2, and nothing else. -/
def PushesWord (i : Instr) (v : Nat) (s : State) : Prop :=
  ∃ m : Memory,
    exec i s =
      .next { s with
        mem := m, sp := BitVec.ofNat 8 ((s.sp.toNat + 254) % 256), cyc := s.cyc - 2, response := .none } ∧
    ∀ n, m.cell n =
      if n = 256 + s.sp.toNat then BitVec.ofNat 8 (v / 256)
      else if n = 256 + (s.sp.toNat + 255) % 256 then BitVec.ofNat 8 (v % 256)
      else s.mem.cell n

/-- R111: `PUSHW`. -/
def Obligations.PushwPushesHighByteFirst : Prop :=
  ∀ (s : State) (v : Word), s.Inv → (Instr.pushw v).HasWord 0x51 0 0 v.toNat ∧ PushesWord (.pushw v) v.toNat s

/-- R112 and R113 (values modulo 65536: decision D9, log 12): the pushed value is `PC - 1` or `PC + 1`, and `PC` is not
changed. -/
def Obligations.PushPcVariantsPushNeighbours : Prop :=
  Instr.pushpcm1.HasWord 0x52 0 0 0 ∧ Instr.pushpcp1.HasWord 0x53 0 0 0 ∧
  ∀ s : State, s.Inv →
    PushesWord .pushpcm1 ((s.pc.toNat + 65535) % 65536) s ∧ PushesWord .pushpcp1 ((s.pc.toNat + 1) % 65536) s

/-- R114: `PUSHPC` pushes `PC` and does not change it. -/
def Obligations.PushpcPushesPc : Prop :=
  Instr.pushpc.HasWord 0x54 0 0 0 ∧ ∀ s : State, s.Inv → PushesWord .pushpc s.pc.toNat s

/-- R115: `PUSHB` writes the byte at the stack address, then steps `SP` down modulo 256; the charge is 2. -/
def Obligations.PushbWritesThenDecrements : Prop :=
  ∀ (s : State) (v : Byte), s.Inv →
    (Instr.pushb v).HasWord 0x55 0 0 v.toNat ∧
    ∃ m : Memory,
      exec (.pushb v) s =
        .next { s with
          mem := m, sp := BitVec.ofNat 8 ((s.sp.toNat + 255) % 256), cyc := s.cyc - 2, response := .none } ∧
      ∀ n, m.cell n = if n = 256 + s.sp.toNat then v else s.mem.cell n

/-- R116: `POPB` steps `SP` up modulo 256, then reads inside the stack page; the charge is 2. -/
def Obligations.PopbIncrementsThenReads : Prop :=
  Instr.popb.HasWord 0x56 0 0 0 ∧
  ∀ s : State,
    exec .popb s =
      .next { s with
        sp := BitVec.ofNat 8 ((s.sp.toNat + 1) % 256), cyc := s.cyc - 2,
        response := .byte (s.mem.cell (256 + (s.sp.toNat + 1) % 256)) }

/-- R117: `POPW` reads a word at the 16-bit sum `0x0101 + SP`, which can leave the stack page, then moves `SP` by two
modulo 256; the charge is 2. -/
def Obligations.PopwReadsAtTheUnmaskedSum : Prop :=
  Instr.popw.HasWord 0x57 0 0 0 ∧
  ∀ s : State, ∃ w : Word,
    exec .popw s =
      .next { s with sp := BitVec.ofNat 8 ((s.sp.toNat + 2) % 256), cyc := s.cyc - 2, response := .word w } ∧
    w.toNat = (s.mem.cell (0x0101 + s.sp.toNat)).toNat + 256 * (s.mem.cell (0x0102 + s.sp.toNat)).toNat

/-- R118 (the spec's derivation from R111 and R117): `PUSHW v` then `POPW` restores `SP`, costs 4, and returns `v` if and
only if `SP` was at least 2; below that it returns what R118 says; the same for the three push-PC operations. -/
def Obligations.WordRoundTripNeedsSpAtLeastTwo : Prop :=
  (∀ (s : State) (v : Word), s.Inv →
    ∃ t, execAll [.pushw v, .popw] s = .next t ∧ t.sp = s.sp ∧ t.cyc = s.cyc - 4 ∧
      (2 ≤ s.sp.toNat → t.response = .word v) ∧
      (s.sp.toNat = 1 → t.response = .word (s.mem.cell 0x0201 ++ s.mem.cell 0x0200)) ∧
      (s.sp.toNat = 0 → t.response = .word (s.mem.cell 0x0200 ++ v.setWidth 8))) ∧
  (∀ sp : Byte,
    (∀ (s : State) (v : Word), s.Inv → s.sp = sp →
      ∃ t, execAll [.pushw v, .popw] s = .next t ∧ t.response = .word v) ↔ 2 ≤ sp.toNat) ∧
  ∀ s : State,
    execAll [.pushpc, .popw] s = execAll [.pushw s.pc, .popw] s ∧
    execAll [.pushpcm1, .popw] s = execAll [.pushw (s.pc - 1), .popw] s ∧
    execAll [.pushpcp1, .popw] s = execAll [.pushw (s.pc + 1), .popw] s

/-- R116, corner case: `PUSHB v` then `POPB` returns `v` and restores `SP` from every state, at a cost of 4. -/
def Obligations.ByteRoundTripAlwaysWorks : Prop :=
  ∀ (s : State) (v : Byte), s.Inv →
    ∃ t, execAll [.pushb v, .popb] s = .next t ∧ t.response = .byte v ∧ t.sp = s.sp ∧ t.cyc = s.cyc - 4

/-- R119 (the spec's derivation): (a) two byte pushes and a word pop, which return the word exactly when `SP` was at least
2; (b) a word push and two byte pops; (c) two byte pops against one word pop, equal in the bytes read exactly when `SP` is
at most 0xFD. -/
def Obligations.MixedByteAndWordStackUse : Prop :=
  (∀ (s : State) (h l : Byte), s.Inv → 2 ≤ s.sp.toNat →
    ∃ t, execAll [.pushb h, .pushb l, .popw] s = .next t ∧ t.response = .word (h ++ l) ∧ t.sp = s.sp ∧
      t.cyc = s.cyc - 6) ∧
  (∀ sp : Byte,
    (∀ (s : State) (h l : Byte), s.Inv → s.sp = sp →
      ∃ t, execAll [.pushb h, .pushb l, .popw] s = .next t ∧ t.response = .word (h ++ l)) ↔ 2 ≤ sp.toNat) ∧
  (∀ (s : State) (h l : Byte), s.Inv →
    ∃ t u, execAll [.pushw (h ++ l), .popb] s = .next t ∧ t.response = .byte l ∧
      exec .popb t = .next u ∧ u.response = .byte h ∧ u.sp = s.sp ∧ u.cyc = s.cyc - 6) ∧
  (∀ s : State, ∃ (t u w : State) (lo hi : Byte),
    exec .popb s = .next t ∧ t.response = .byte lo ∧ exec .popb t = .next u ∧ u.response = .byte hi ∧
    exec .popw s = .next w ∧ u.sp = w.sp ∧ u.cyc = s.cyc - 4 ∧ w.cyc = s.cyc - 2 ∧
    (s.sp.toNat ≤ 0xFD → w.response = .word (hi ++ lo))) ∧
  (∀ sp : Byte, 0xFD < sp.toNat → ∃ s : State, s.Inv ∧ s.sp = sp ∧
    ∃ (t u w : State) (lo hi : Byte),
      exec .popb s = .next t ∧ t.response = .byte lo ∧ exec .popb t = .next u ∧ u.response = .byte hi ∧
      exec .popw s = .next w ∧ w.response ≠ .word (hi ++ lo))

/-- R115, corner case, and R156: 256 byte pushes in a row overwrite the whole stack page once, in falling order from the
first address, return `SP` to where it started, touch no other cell and cost 512. -/
def Obligations.FullPageOfPushesWrapsOnce : Prop :=
  ∀ (s : State) (vs : List Byte), s.Inv → vs.length = 256 →
    ∃ t, execAll (vs.map .pushb) s = .next t ∧ t.sp = s.sp ∧ t.cyc = s.cyc - 512 ∧
      (∀ k (hk : k < vs.length), t.mem.cell (256 + (s.sp.toNat + 256 - k) % 256) = vs[k]) ∧
      (∀ n, n < 256 ∨ 512 ≤ n → t.mem.cell n = s.mem.cell n)

/-- R111, corner case 4, and R157: `PUSHW {h, l}` leaves what `PUSHB h` then `PUSHB l` leave, at half the cost. -/
def Obligations.WordPushIsTwoBytePushesAtHalfCost : Prop :=
  ∀ (s : State) (h l : Byte), ∃ t,
    execAll [.pushb h, .pushb l] s = .next t ∧ t.cyc = s.cyc - 4 ∧
    exec (.pushw (h ++ l)) s = .next { t with cyc := s.cyc - 2 }

/-! ### Rules over all operations -/

/-- R6 and R130: every operation completes, from every state, with no exception: there is no fault to raise. -/
def Obligations.EveryOperationCompletes : Prop :=
  (∀ (i : Instr) (s : State), ∃ t, exec i s = .next t) ∧ ∀ _ : Fault, False

/-- R164 (the zero cost of the register access operations is decision D13, log 11): every operation subtracts its entry
of the cost table, and the entry depends on the operation code alone. -/
def Obligations.EveryOperationCostsItsTableEntry : Prop :=
  (∀ (i : Instr) (s : State), ∃ t, exec i s = .next t ∧ t.cyc = s.cyc - i.cost) ∧
  ∀ i j : Instr, i.fields.op = j.fields.op → i.cost = j.cost

/-- R165 (the spec's derivation): a sequence of operations completes and costs the sum of its operations' costs. -/
def Obligations.SequenceCostsTheSum : Prop :=
  ∀ (is : List Instr) (s : State), ∃ t, execAll is s = .next t ∧ t.cyc = s.cyc - (is.map Instr.cost).sum

/-- R140: an operation issued with any budget, exhausted or negative too, executes in full, does what it does at every
other budget, and returns the budget lower by its cost. -/
def Obligations.BudgetIsNeverTested : Prop :=
  ∀ (i : Instr) (s : State) (n : Int), ∃ t,
    exec i s = .next t ∧ exec i { s with cyc := n } = .next { t with cyc := n - i.cost }

/-- R21 and R44, the writes: an operation writes only the registers and flags of its row and the cells it addresses,
charges its cost, and leaves the caller's queue alone. This is the frame of every operation. -/
def Obligations.OperationsWriteOnlyTheirRow : Prop :=
  ∀ (i : Instr) (s : State), s.Inv → ∃ t, exec i s = .next t ∧
    (∀ pl : Place, i.writes pl = false → pl.same s t) ∧
    (∀ n, i.storesTo s n = false → t.mem.cell n = s.mem.cell n) ∧
    t.cyc = s.cyc - i.cost ∧ t.pending = s.pending

/-- R21 and R44, the reads: what an operation returns and writes depends only on the registers and flags of its row and
the cells it addresses. -/
def Obligations.OperationsReadOnlyTheirRow : Prop :=
  ∀ (i : Instr) (s s' : State), s.Inv → s'.Inv →
    (∀ pl : Place, i.reads pl = true → pl.same s s') →
    (∀ n, i.loadsFrom s n = true → s'.mem.cell n = s.mem.cell n) →
    ∃ t t', exec i s = .next t ∧ exec i s' = .next t' ∧ t'.response = t.response ∧
      (∀ pl : Place, i.writes pl = true → pl.same t t') ∧
      (∀ n, n < 65536 → i.storesTo s n = true → t'.mem.cell n = t.mem.cell n)

/-- R11 and R14: the operations of files 40 and 42 to 44 neither read nor write `A`, `X`, `Y` or a flag, and do the same
whatever these hold. -/
def Obligations.FlagsAndGeneralRegistersAreInert : Prop :=
  ∀ (i : Instr) (s : State) (a x y : Byte) (p : Flags), i.accessesRegisters = false →
    ∃ t, exec i s = .next t ∧ t.a = s.a ∧ t.x = s.x ∧ t.y = s.y ∧ t.p = s.p ∧
      exec i (s.withRegisters a x y p) = .next (t.withRegisters a x y p)

/-- R10 and R20 (nothing else is state), for the model's own two fields (log 1, log 2): no operation depends on the last
response or on the caller's queue. -/
def Obligations.ModelFieldsCarryNoHiddenState : Prop :=
  ∀ (i : Instr) (s : State) (r : Response) (q : List Request), ∃ t,
    exec i s = .next t ∧ exec i { s with response := r, pending := q } = .next { t with pending := q }

/-- R17: `P.U` keeps its value across every sequence of operations without `WRFLG U` and `WRREG P`, `RESET` included. -/
def Obligations.UnusedFlagKeepsItsValue : Prop :=
  ∀ (is : List Instr) (s : State),
    (∀ i ∈ is, (∀ b, i ≠ .wrflgU b) ∧ (∀ v, i ≠ .wrregP v)) →
    ∃ t, execAll is s = .next t ∧ t.p.u = s.p.u

/-- R57 (decision D5, log 9): how a result sits on the 16-bit response word. -/
def Obligations.ResponseWordCodesTheResult : Prop :=
  (Response.none).toRes.toNat = 0 ∧
  (∀ b : Bool, (Response.bit b).toRes.toNat = b.toNat) ∧
  (∀ v : Byte, (Response.byte v).toRes.toNat = v.toNat) ∧
  (∀ v : Byte, (Response.signedByte v).toRes.toInt = v.toInt ∧ (Response.signedByte v).toRes.setWidth 8 = v) ∧
  (∀ v : Word, (Response.word v).toRes = v)

/-! ### The canonical form of the memory -/

/-- The power-on state has it. -/
def Obligations.PowerOnMemoryIsCanonical : Prop :=
  State.reset.Inv ∧ ∀ u, (State.powerOn u).Inv

/-- R18 and R30: every step keeps the memory's canonical form, so the list always stands for exactly the array's 65536
cells and no others. -/
def Obligations.EveryStepKeepsMemoryCanonical : Prop :=
  ∀ s t : State, s.Inv → step s = .next t → t.Inv

/-! ### Power-on -/

/-- R150 (decisions D12, D17; the value of `cyc` is the model's, log 3, and is not stated): the power-on state for both
values of `UNUSED_POWERON`; it is the state `RESET` leaves. -/
def Obligations.PowerOnStateForBothUnusedValues : Prop :=
  State.reset = State.powerOn Config.unusedPoweron ∧
  ∀ u : Bool, ∃ s, s = State.powerOn u ∧ exec .reset s = .next s ∧
    s.a = 0x00 ∧ s.x = 0x00 ∧ s.y = 0x00 ∧ s.pc = 0xFFFC ∧ s.sp = 0xFF ∧
    s.p = ⟨false, false, false, false, false, u, false, false⟩ ∧
    s.p.toByte = (if u then 0x20 else 0x00) ∧ ∀ n, s.mem.cell n = 0x00

/-! ### The command word (30_encoding.md; decisions D2, D3, D4, log 8) -/

/-- R61 and vectors of 95_test_vectors.md: worked encodings decode to the operations they stand for. -/
def Obligations.WorkedEncodingsDecode : Prop :=
  decode 0x2000000000000000 = .ok .reset ∧
  decode 0x12000000010000AB = .ok (.mwr 0x00000100 0xAB) ∧
  decode 0x1100000100000000 = .ok (.mrd 0x00010000) ∧
  decode 0x2204000000000100 = .ok (.wrregPC 0x0100) ∧
  decode 0x4100000001000000 = .ok (.rdw 0x0100) ∧
  decode 0x43000000FFFFCDAB = .ok (.wrw 0xCDAB 0xFFFF) ∧
  decode 0x5100000000001234 = .ok (.pushw 0x1234) ∧
  decode 0x5700000000000000 = .ok .popw ∧
  decode 0x2405000000000001 = .ok (.wrflgU true) ∧
  decode 0x3100000000000000 = .ok .fetchsb ∧
  decode 0x4000000100000000 = .error .mustBeZero

/-- R52: decoding the command word of any operation, with any operands, gives back that operation. -/
def Obligations.DecodeOfEncodeIsTheOperation : Prop :=
  ∀ i : Instr, decode (encode i) = .ok i

/-- R52: an accepted word is the one command word of the operation it spells. -/
def Obligations.EncodeOfDecodeIsTheWord : Prop :=
  ∀ (w : Command) (i : Instr), decode w = .ok i → encode i = w

/-- R60: the decoder reads an operation exactly where the opcode map's row for it has `CMD & mask = match`. -/
def Obligations.DecoderAgreesWithTheOpcodeRows : Prop :=
  ∀ (w : Command) (r : Row), r ∈ opcodeRows → (r.spells w = true ↔ ∃ i, decode w = .ok i ∧ i.mnemonic = r.mnemonic)

/-- R60: at most one row matches any word. -/
def Obligations.AtMostOneRowSpellsAWord : Prop :=
  ∀ (w : Command) (r₁ r₂ : Row), r₁ ∈ opcodeRows → r₂ ∈ opcodeRows →
    r₁.spells w = true → r₂.spells w = true → r₁ = r₂

/-- R56: a word is refused exactly when no row spells it; the reason is an unassigned code exactly for the codes R55 does
not list; and the machine has no step for it. -/
def Obligations.ReservedWordsAreRefused : Prop :=
  (∀ w : Command, (∃ why, decode w = .error why) ↔ accepted w = false) ∧
  (∀ w : Command, decode w = .error .unassignedOp ↔
    (Fields.ofCommand w).op.toNat ∉ [0x10, 0x11, 0x12, 0x20, 0x21, 0x22, 0x23, 0x24, 0x30, 0x31, 0x32,
      0x40, 0x41, 0x42, 0x43, 0x50, 0x51, 0x52, 0x53, 0x54, 0x55, 0x56, 0x57]) ∧
  ∀ (s : State) (r : Request) (rest : List Request), s.pending = r :: rest → accepted r.cmd = false →
    ∃ why, step s = .refused (.reservedCommand why)

/-- R58 (decision D16): the assembler accepts exactly the well-formed commands; an operand that does not fit its width is
an error, not a truncation. -/
def Obligations.AssemblerAcceptsExactlyTheWellFormed : Prop :=
  ∀ c : Source,
    ((∃ i, assemble c = .ok i) ↔ c.wellFormed = true) ∧
    (c.shapeOk = false → assemble c = .error .wrongOperands) ∧
    (c.shapeOk = true → c.widthsOk = false → assemble c = .error .operandTooWide)

/-! ### A step -/

/-- R50: a step takes the caller's next transaction and runs the operation its command word spells, at the budget the
caller set, if it set one (the queue and the optional budget are the model's form of the caller, log 1, log 16). -/
def Obligations.StepRunsTheDecodedOperation : Prop :=
  (∀ (s : State) (r : Request) (rest : List Request) (i : Instr), s.pending = r :: rest → decode r.cmd = .ok i →
    step s = exec i { s with pending := rest, cyc := r.budget.getD s.cyc }) ∧
  ∀ (s : State) (w : Nat) (i : Instr), decode (BitVec.ofNat 64 w) = .ok i → step (s.withFetchWord 64 w) = exec i s

/-- R4 (log 14): without a command from the caller there is no step. -/
def Obligations.NoStepWithoutACommand : Prop :=
  ∀ s : State, s.pending = [] → step s = .refused .noCommand

/-- R40 and R50: the machine behind the command words is the sequence of operations: issued as command words, any
operations, with any operands, run in issue order, one step each, and leave exactly what the operations leave. -/
def Obligations.IssuedCommandsRunInOrder : Prop :=
  ∀ (is : List Instr) (s : State), ∃ t,
    execAll is s = .next t ∧ core.run is.length (s.issueAll is) = .next t

end Statements
end

