-- ==== Sys2Proof/Laws/Decode.lean ====
section
/-! SUPPORT. The command word and its fields. -/

namespace Sys2Proof

/-- The command word as a number (R51). -/
theorem Fields.toCommand_toNat (f : Fields) :
    f.toCommand.toNat = f.op.toNat * 2 ^ 56 + f.sel.toNat * 2 ^ 48 + f.addr.toNat * 2 ^ 16 + f.data.toNat := by
  have h (a : Nat) {b n : Nat} (hb : b < 2 ^ n) : a <<< n ||| b = a * 2 ^ n + b := by
    rw [Nat.shiftLeft_eq, Nat.mul_comm, ← Nat.two_pow_add_eq_or_of_lt hb]
  simp only [Fields.toCommand, BitVec.toNat_append]
  rw [h _ f.sel.isLt, h _ f.addr.isLt, h _ f.data.isLt]
  ring

/-- Reading the fields of a word put together from fields gives them back. -/
@[simp] theorem Fields.ofCommand_toCommand (f : Fields) : Fields.ofCommand f.toCommand = f := by
  have h1 := f.op.isLt
  have h2 := f.sel.isLt
  have h3 := f.addr.isLt
  have h4 := f.data.isLt
  have e := f.toCommand_toNat
  obtain ⟨op, sel, addr, data⟩ := f
  simp only [Fields.ofCommand, Fields.mk.injEq] at *
  refine ⟨?_, ?_, ?_, ?_⟩ <;>
  · apply BitVec.eq_of_toNat_eq
    rw [BitVec.extractLsb'_toNat, e, Nat.shiftRight_eq_div_pow]
    omega

/-- A word is put together from its fields. -/
@[simp] theorem Fields.toCommand_ofCommand (w : Command) : (Fields.ofCommand w).toCommand = w := by
  have h := w.isLt
  apply BitVec.eq_of_toNat_eq
  rw [Fields.toCommand_toNat]
  simp only [Fields.ofCommand, BitVec.extractLsb'_toNat, Nat.shiftRight_eq_div_pow]
  omega

/-- A byte operand leaves `DATA[15:8]` zero. -/
@[simp] theorem extractHigh_byte (v : Byte) : (v.setWidth 16).extractLsb' 8 8 = 0#8 := by
  have := v.isLt
  apply BitVec.eq_of_toNat_eq
  simp only [BitVec.extractLsb'_toNat, BitVec.toNat_setWidth, Nat.shiftRight_eq_div_pow, BitVec.toNat_ofNat]
  omega

/-- A 16-bit address leaves `ADDR[31:16]` zero. -/
@[simp] theorem extractHigh_addr16 (a : Addr16) : (a.setWidth 32).extractLsb' 16 16 = 0#16 := by
  have := a.isLt
  apply BitVec.eq_of_toNat_eq
  simp only [BitVec.extractLsb'_toNat, BitVec.toNat_setWidth, Nat.shiftRight_eq_div_pow, BitVec.toNat_ofNat]
  omega

/-- A data field with `DATA[15:8]` zero is its byte operand again (R54). -/
theorem byte_of_highZero {d : Word} (h : d.extractLsb' 8 8 = 0) : (d.setWidth 8).setWidth 16 = d := by
  have h1 : (d.extractLsb' 8 8).toNat = 0 := by rw [h]; rfl
  have := d.isLt
  apply BitVec.eq_of_toNat_eq
  simp only [BitVec.extractLsb'_toNat, Nat.shiftRight_eq_div_pow, BitVec.toNat_setWidth] at *
  omega

/-- An address field with `ADDR[31:16]` zero is its 16-bit address again (R54). -/
theorem addr16_of_highZero {a : Addr32} (h : a.extractLsb' 16 16 = 0) : (a.setWidth 16).setWidth 32 = a := by
  have h1 : (a.extractLsb' 16 16).toNat = 0 := by rw [h]; rfl
  have := a.isLt
  apply BitVec.eq_of_toNat_eq
  simp only [BitVec.extractLsb'_toNat, Nat.shiftRight_eq_div_pow, BitVec.toNat_setWidth] at *
  omega

/-- A data field with `DATA[15:1]` zero is its bit operand again (R54). -/
theorem bit_of_aboveZero {d : Word} (h : d.extractLsb' 1 15 = 0) : (BitVec.ofBool (d.getLsbD 0)).setWidth 16 = d := by
  have h1 : (d.extractLsb' 1 15).toNat = 0 := by rw [h]; rfl
  have := d.isLt
  have hb : d.getLsbD 0 = (d.toNat % 2 == 1) := by simp [BitVec.getLsbD, Nat.testBit_zero]; rfl
  apply BitVec.eq_of_toNat_eq
  simp only [BitVec.extractLsb'_toNat, Nat.shiftRight_eq_div_pow] at *
  rcases (by omega : d.toNat = 0 ∨ d.toNat = 1) with h | h <;> rw [hb, h] <;> rfl

/-- The must-be-zero rule lets through exactly the words whose unused bits are zero (R52). -/
theorem accept_eq_ok {b : Bool} {i j : Instr} : accept b i = .ok j ↔ b = true ∧ j = i := by
  cases b <;> simp [accept, eq_comm]

/-- The decoder on an encoded operation is the opcode map on its fields. -/
theorem decode_encode_fields (i : Instr) : decode (encode i) = decodeFields i.fields := by
  simp [decode, encode]

end Sys2Proof
end

