-- ==== Sys2Proof/Laws/Flags.lean ====
section
/-! SUPPORT. The flags by name and the status byte. -/

namespace Sys2Proof.Machine

@[simp] theorem Flags.get_set_same (p : Flags) (f : Flag) (b : Bool) : (p.set f b).get f = b := by
  cases f <;> rfl

theorem Flags.get_set_other (p : Flags) {f g : Flag} (b : Bool) (h : g ≠ f) : (p.set f b).get g = p.get g := by
  cases f <;> cases g <;> first | rfl | exact absurd rfl h

/-- Two status words with the same flags are the same. -/
theorem Flags.ext_get {p q : Flags} (h : ∀ f, p.get f = q.get f) : p = q := by
  obtain ⟨_, _, _, _, _, _, _, _⟩ := p
  obtain ⟨_, _, _, _, _, _, _, _⟩ := q
  simp only [Flags.mk.injEq]
  exact ⟨h .C, h .Z, h .I, h .D, h .B, h .U, h .V, h .N⟩

/-- Bit `i` of the status byte is the flag at index `i` (R15). -/
theorem Flags.getLsbD_toByte (p : Flags) (f : Flag) : p.toByte.getLsbD (Config.flagBit f) = p.get f := by
  obtain ⟨c, z, i, d, b, u, v, n⟩ := p
  revert f c z i d b u v n
  intro f
  cases f <;> decide

/-- The flag at index `i` after `fromByte` is bit `i` (R15). -/
theorem Flags.get_fromByte (b : Byte) (f : Flag) : (Flags.fromByte b).get f = b.getLsbD (Config.flagBit f) := by
  cases f <;> rfl

end Sys2Proof.Machine
end

