-- ==== Sys2Proof/Laws/Memory.lean ====
section
/-! SUPPORT. The memory array: read after write, and the canonical form, once for each operation. -/

namespace Sys2Proof.Machine

/-- In a list whose addresses start at `lo`, a lower cell is cleared. -/
theorem Memory.cell_below {m : Memory} : ∀ {lo n : Nat}, m.wfFrom lo = true → n < lo → m.cell n = Config.clearedCell := by
  induction m with
  | nil => intros; rfl
  | cons e rest ih =>
    obtain ⟨b, w⟩ := e
    intro lo n h hn
    simp only [Memory.wfFrom, Bool.and_eq_true, decide_eq_true_eq] at h
    have hb : b ≠ n := by omega
    simp [Memory.cell, hb, ih h.2 (by omega : n < b + 1)]

/-- The canonical form from an address on holds from any lower one. -/
theorem Memory.wfFrom_mono {m : Memory} {lo lo' : Nat} (h : m.wfFrom lo = true) (hle : lo' ≤ lo) :
    m.wfFrom lo' = true := by
  cases m with
  | nil => rfl
  | cons e rest =>
    simp only [Memory.wfFrom, Bool.and_eq_true, decide_eq_true_eq] at h ⊢
    exact ⟨⟨⟨by omega, h.1.1.2⟩, h.1.2⟩, h.2⟩

/-- Nothing above the array is stored. -/
theorem Memory.cell_outside {m : Memory} : ∀ {lo n : Nat}, m.wfFrom lo = true → Config.memSize ≤ n →
    m.cell n = Config.clearedCell := by
  induction m with
  | nil => intros; rfl
  | cons e rest ih =>
    obtain ⟨b, w⟩ := e
    intro lo n h hn
    simp only [Memory.wfFrom, Bool.and_eq_true, decide_eq_true_eq] at h
    have hb : b ≠ n := by omega
    simp [Memory.cell, hb, ih h.2 hn]

/-- Read after write, from an address on. -/
theorem Memory.cell_put_from {m : Memory} : ∀ {lo : Nat} (n : Nat) (v : Byte) (k : Nat), m.wfFrom lo = true →
    (m.put n v).cell k = if k = n then v else m.cell k := by
  induction m with
  | nil =>
    intro lo n v k _
    by_cases hv : v = Config.clearedCell <;> by_cases hk : k = n <;> simp [Memory.put, Memory.cell, hv, hk, eq_comm]
    exact fun h => absurd h.symm hk
  | cons e rest ih =>
    obtain ⟨b, w⟩ := e
    intro lo n v k h
    simp only [Memory.wfFrom, Bool.and_eq_true, decide_eq_true_eq] at h
    unfold Memory.put
    by_cases h1 : n < b
    · by_cases hv : v = Config.clearedCell
      · by_cases hk : k = n
        · have hb : b ≠ n := by omega
          simp [h1, hv, hk, Memory.cell, hb, Memory.cell_below h.2 (by omega : n < b + 1)]
        · simp [h1, hv, hk]
      · by_cases hk : k = n
        · simp [h1, hv, hk, Memory.cell]
        · simp [h1, hv, hk, Memory.cell, Ne.symm hk]
    · by_cases h2 : n = b
      · subst h2
        by_cases hk : k = n
        · by_cases hv : v = Config.clearedCell
          · simp [hv, hk, Memory.cell_below h.2 (by omega : n < n + 1)]
          · simp [hv, hk, Memory.cell]
        · by_cases hv : v = Config.clearedCell <;> simp [hv, hk, Memory.cell, Ne.symm hk]
      · simp only [h1, h2, if_false, Memory.cell, ih n v k h.2]
        by_cases hb : b = k
        · have : k ≠ n := by omega
          simp [hb, this]
        · simp [hb]

/-- Read after write (R46). -/
theorem Memory.cell_put {m : Memory} (h : m.wf = true) (n : Nat) (v : Byte) (k : Nat) :
    (m.put n v).cell k = if k = n then v else m.cell k :=
  Memory.cell_put_from n v k h

/-- A write keeps the canonical form, from an address on. -/
theorem Memory.wfFrom_put {m : Memory} : ∀ {lo n : Nat} (v : Byte), m.wfFrom lo = true → lo ≤ n → n < Config.memSize →
    (m.put n v).wfFrom lo = true := by
  induction m with
  | nil =>
    intro lo n v _ h1 h2
    by_cases hv : v = Config.clearedCell <;> simp [Memory.put, Memory.wfFrom, hv, h1, h2]
  | cons e rest ih =>
    obtain ⟨b, w⟩ := e
    intro lo n v h hlo hn
    have h' := h
    simp only [Memory.wfFrom, Bool.and_eq_true, decide_eq_true_eq] at h'
    unfold Memory.put
    by_cases h1 : n < b
    · by_cases hv : v = Config.clearedCell
      · simpa [h1, hv] using h
      · simp only [h1, hv, if_true, if_false, Memory.wfFrom, Bool.and_eq_true, decide_eq_true_eq]
        exact ⟨⟨⟨hlo, hn⟩, hv⟩, ⟨⟨by omega, h'.1.1.2⟩, h'.1.2⟩, h'.2⟩
    · by_cases h2 : n = b
      · subst h2
        by_cases hv : v = Config.clearedCell
        · simpa [hv] using Memory.wfFrom_mono h'.2 (by omega)
        · simp only [lt_irrefl, hv, if_true, if_false, Memory.wfFrom, Bool.and_eq_true, decide_eq_true_eq]
          exact ⟨⟨⟨hlo, hn⟩, hv⟩, h'.2⟩
      · simp only [h1, h2, if_false, Memory.wfFrom, Bool.and_eq_true, decide_eq_true_eq]
        exact ⟨h'.1, ih v h'.2 (by omega) hn⟩

/-- A write inside the array keeps the canonical form. -/
theorem Memory.wf_put {m : Memory} (h : m.wf = true) {n : Nat} (hn : n < Config.memSize) (v : Byte) :
    (m.put n v).wf = true :=
  Memory.wfFrom_put v h (by omega) hn

@[simp] theorem Memory.wf_initialised : Memory.initialised.wf = true := rfl

@[simp] theorem Memory.cell_initialised (n : Nat) : Memory.initialised.cell n = Config.clearedCell := rfl

/-- The bounded read of an in-range address is the cell (R31). -/
theorem memRead_inRange {m : Memory} {a : Addr32} (h : a.toNat < Config.memSize) : memRead m a = m.cell a.toNat := by
  simp [memRead, h]

/-- The bounded read of an out-of-range address is the sentinel (R31). -/
theorem memRead_outOfRange {m : Memory} {a : Addr32} (h : Config.memSize ≤ a.toNat) : memRead m a = Config.oorRead := by
  simp [memRead, Nat.not_lt.mpr h]

/-- An out-of-range write is discarded (R32). -/
theorem memWrite_outOfRange {m : Memory} {a : Addr32} (v : Byte) (h : Config.memSize ≤ a.toNat) :
    memWrite m a v = m := by
  simp [memWrite, Nat.not_lt.mpr h]

/-- Everything a bounded write does to the cells (R32, R46). -/
theorem cell_memWrite {m : Memory} (h : m.wf = true) (a : Addr32) (v : Byte) (k : Nat) :
    (memWrite m a v).cell k = if k = a.toNat ∧ a.toNat < Config.memSize then v else m.cell k := by
  by_cases ha : a.toNat < Config.memSize
  · simp [memWrite, ha, Memory.cell_put h]
  · simp [memWrite, ha]

/-- A bounded write keeps the canonical form, in range or out. -/
theorem wf_memWrite {m : Memory} (h : m.wf = true) (a : Addr32) (v : Byte) : (memWrite m a v).wf = true := by
  by_cases ha : a.toNat < Config.memSize
  · simpa [memWrite, ha] using Memory.wf_put h ha v
  · simpa [memWrite, ha] using h

end Sys2Proof.Machine
end

