-- ==== Sys2Proof/Laws/Operands.lean ====
section
/-! SUPPORT. The bytes of a word and the effective addresses, as numbers. -/

namespace Sys2Proof.Machine

@[simp] theorem loByte_toNat (w : Word) : (loByte w).toNat = w.toNat % 256 := by
  simp [loByte]

@[simp] theorem hiByte_toNat (w : Word) : (hiByte w).toNat = w.toNat / 256 := by
  have := w.isLt
  simp only [hiByte, BitVec.extractLsb'_toNat, Nat.shiftRight_eq_div_pow]
  omega

@[simp] theorem makeWord_toNat (hi lo : Byte) : (makeWord hi lo).toNat = lo.toNat + 256 * hi.toNat := by
  have := lo.isLt
  simp only [makeWord, BitVec.toNat_append, Nat.shiftLeft_eq]
  rw [Nat.mul_comm, ← Nat.two_pow_add_eq_or_of_lt (by simpa using this)]
  omega

@[simp] theorem makeWord_bytes (w : Word) : makeWord (hiByte w) (loByte w) = w := by
  apply BitVec.eq_of_toNat_eq
  simp only [makeWord_toNat, loByte_toNat, hiByte_toNat]
  omega

@[simp] theorem loByte_makeWord (hi lo : Byte) : loByte (makeWord hi lo) = lo := by
  apply BitVec.eq_of_toNat_eq
  have := lo.isLt
  simp only [makeWord_toNat, loByte_toNat]
  omega

@[simp] theorem hiByte_makeWord (hi lo : Byte) : hiByte (makeWord hi lo) = hi := by
  apply BitVec.eq_of_toNat_eq
  have := lo.isLt
  simp only [makeWord_toNat, hiByte_toNat]
  omega

/-- The processor port's addresses are always in range (R33, R37). -/
@[simp] theorem zext32_toNat (a : Addr16) : (zext32 a).toNat = a.toNat := by
  have := a.isLt
  simp only [zext32, BitVec.toNat_setWidth]
  omega

@[simp] theorem nextAddress_toNat (a : Addr16) : (nextAddress a).toNat = (a.toNat + 1) % 65536 := by
  simp [nextAddress, BitVec.toNat_add]

/-- The second address of a word access is never the first (R36). -/
theorem nextAddress_ne (a : Addr16) : (nextAddress a).toNat ≠ a.toNat := by
  have := a.isLt
  rw [nextAddress_toNat]
  omega

@[simp] theorem stackAddress_toNat (sp : Byte) : (stackAddress sp).toNat = 256 + sp.toNat := by
  have h := sp.isLt
  have e : (2 : Nat) ^ 8 * 1 + sp.toNat = 2 ^ 8 * 1 ||| sp.toNat := Nat.two_pow_add_eq_or_of_lt h 1
  simp only [stackAddress, Config.stackBase, BitVec.toNat_or, BitVec.toNat_setWidth]
  rw [Nat.mod_eq_of_lt (by omega : sp.toNat < 2 ^ 16)]
  exact e.symm

@[simp] theorem popWordAddress_toNat (sp : Byte) : (popWordAddress sp).toNat = 257 + sp.toNat := by
  have := sp.isLt
  rw [popWordAddress, BitVec.toNat_add, stackAddress_toNat, show (1 : Word).toNat = 1 from rfl]
  omega

end Sys2Proof.Machine
end

