-- ==== Sys2Proof/Laws/State.lean ====
section
/-! SUPPORT. One lemma per field per update of the state, so that no later proof unfolds a record update. -/

namespace Sys2Proof.Machine

section setA
variable (v : Byte) (s : State)

@[simp] theorem State.setA_a : (s.setA v).a = v := rfl
@[simp] theorem State.setA_x : (s.setA v).x = s.x := rfl
@[simp] theorem State.setA_y : (s.setA v).y = s.y := rfl
@[simp] theorem State.setA_pc : (s.setA v).pc = s.pc := rfl
@[simp] theorem State.setA_sp : (s.setA v).sp = s.sp := rfl
@[simp] theorem State.setA_p : (s.setA v).p = s.p := rfl
@[simp] theorem State.setA_mem : (s.setA v).mem = s.mem := rfl
@[simp] theorem State.setA_cyc : (s.setA v).cyc = s.cyc := rfl
@[simp] theorem State.setA_response : (s.setA v).response = s.response := rfl
@[simp] theorem State.setA_pending : (s.setA v).pending = s.pending := rfl

end setA

section setX
variable (v : Byte) (s : State)

@[simp] theorem State.setX_a : (s.setX v).a = s.a := rfl
@[simp] theorem State.setX_x : (s.setX v).x = v := rfl
@[simp] theorem State.setX_y : (s.setX v).y = s.y := rfl
@[simp] theorem State.setX_pc : (s.setX v).pc = s.pc := rfl
@[simp] theorem State.setX_sp : (s.setX v).sp = s.sp := rfl
@[simp] theorem State.setX_p : (s.setX v).p = s.p := rfl
@[simp] theorem State.setX_mem : (s.setX v).mem = s.mem := rfl
@[simp] theorem State.setX_cyc : (s.setX v).cyc = s.cyc := rfl
@[simp] theorem State.setX_response : (s.setX v).response = s.response := rfl
@[simp] theorem State.setX_pending : (s.setX v).pending = s.pending := rfl

end setX

section setY
variable (v : Byte) (s : State)

@[simp] theorem State.setY_a : (s.setY v).a = s.a := rfl
@[simp] theorem State.setY_x : (s.setY v).x = s.x := rfl
@[simp] theorem State.setY_y : (s.setY v).y = v := rfl
@[simp] theorem State.setY_pc : (s.setY v).pc = s.pc := rfl
@[simp] theorem State.setY_sp : (s.setY v).sp = s.sp := rfl
@[simp] theorem State.setY_p : (s.setY v).p = s.p := rfl
@[simp] theorem State.setY_mem : (s.setY v).mem = s.mem := rfl
@[simp] theorem State.setY_cyc : (s.setY v).cyc = s.cyc := rfl
@[simp] theorem State.setY_response : (s.setY v).response = s.response := rfl
@[simp] theorem State.setY_pending : (s.setY v).pending = s.pending := rfl

end setY

section setPc
variable (v : Word) (s : State)

@[simp] theorem State.setPc_a : (s.setPc v).a = s.a := rfl
@[simp] theorem State.setPc_x : (s.setPc v).x = s.x := rfl
@[simp] theorem State.setPc_y : (s.setPc v).y = s.y := rfl
@[simp] theorem State.setPc_pc : (s.setPc v).pc = v := rfl
@[simp] theorem State.setPc_sp : (s.setPc v).sp = s.sp := rfl
@[simp] theorem State.setPc_p : (s.setPc v).p = s.p := rfl
@[simp] theorem State.setPc_mem : (s.setPc v).mem = s.mem := rfl
@[simp] theorem State.setPc_cyc : (s.setPc v).cyc = s.cyc := rfl
@[simp] theorem State.setPc_response : (s.setPc v).response = s.response := rfl
@[simp] theorem State.setPc_pending : (s.setPc v).pending = s.pending := rfl

end setPc

section setSp
variable (v : Byte) (s : State)

@[simp] theorem State.setSp_a : (s.setSp v).a = s.a := rfl
@[simp] theorem State.setSp_x : (s.setSp v).x = s.x := rfl
@[simp] theorem State.setSp_y : (s.setSp v).y = s.y := rfl
@[simp] theorem State.setSp_pc : (s.setSp v).pc = s.pc := rfl
@[simp] theorem State.setSp_sp : (s.setSp v).sp = v := rfl
@[simp] theorem State.setSp_p : (s.setSp v).p = s.p := rfl
@[simp] theorem State.setSp_mem : (s.setSp v).mem = s.mem := rfl
@[simp] theorem State.setSp_cyc : (s.setSp v).cyc = s.cyc := rfl
@[simp] theorem State.setSp_response : (s.setSp v).response = s.response := rfl
@[simp] theorem State.setSp_pending : (s.setSp v).pending = s.pending := rfl

end setSp

section setFlags
variable (q : Flags) (s : State)

@[simp] theorem State.setFlags_a : (s.setFlags q).a = s.a := rfl
@[simp] theorem State.setFlags_x : (s.setFlags q).x = s.x := rfl
@[simp] theorem State.setFlags_y : (s.setFlags q).y = s.y := rfl
@[simp] theorem State.setFlags_pc : (s.setFlags q).pc = s.pc := rfl
@[simp] theorem State.setFlags_sp : (s.setFlags q).sp = s.sp := rfl
@[simp] theorem State.setFlags_p : (s.setFlags q).p = q := rfl
@[simp] theorem State.setFlags_mem : (s.setFlags q).mem = s.mem := rfl
@[simp] theorem State.setFlags_cyc : (s.setFlags q).cyc = s.cyc := rfl
@[simp] theorem State.setFlags_response : (s.setFlags q).response = s.response := rfl
@[simp] theorem State.setFlags_pending : (s.setFlags q).pending = s.pending := rfl

end setFlags

section setMem
variable (m : Memory) (s : State)

@[simp] theorem State.setMem_a : (s.setMem m).a = s.a := rfl
@[simp] theorem State.setMem_x : (s.setMem m).x = s.x := rfl
@[simp] theorem State.setMem_y : (s.setMem m).y = s.y := rfl
@[simp] theorem State.setMem_pc : (s.setMem m).pc = s.pc := rfl
@[simp] theorem State.setMem_sp : (s.setMem m).sp = s.sp := rfl
@[simp] theorem State.setMem_p : (s.setMem m).p = s.p := rfl
@[simp] theorem State.setMem_mem : (s.setMem m).mem = m := rfl
@[simp] theorem State.setMem_cyc : (s.setMem m).cyc = s.cyc := rfl
@[simp] theorem State.setMem_response : (s.setMem m).response = s.response := rfl
@[simp] theorem State.setMem_pending : (s.setMem m).pending = s.pending := rfl

end setMem

section charge
variable (k : Int) (s : State)

@[simp] theorem State.charge_a : (s.charge k).a = s.a := rfl
@[simp] theorem State.charge_x : (s.charge k).x = s.x := rfl
@[simp] theorem State.charge_y : (s.charge k).y = s.y := rfl
@[simp] theorem State.charge_pc : (s.charge k).pc = s.pc := rfl
@[simp] theorem State.charge_sp : (s.charge k).sp = s.sp := rfl
@[simp] theorem State.charge_p : (s.charge k).p = s.p := rfl
@[simp] theorem State.charge_mem : (s.charge k).mem = s.mem := rfl
@[simp] theorem State.charge_cyc : (s.charge k).cyc = s.cyc - k := rfl
@[simp] theorem State.charge_response : (s.charge k).response = s.response := rfl
@[simp] theorem State.charge_pending : (s.charge k).pending = s.pending := rfl

end charge

section respond
variable (r : Response) (s : State)

@[simp] theorem State.respond_a : (s.respond r).a = s.a := rfl
@[simp] theorem State.respond_x : (s.respond r).x = s.x := rfl
@[simp] theorem State.respond_y : (s.respond r).y = s.y := rfl
@[simp] theorem State.respond_pc : (s.respond r).pc = s.pc := rfl
@[simp] theorem State.respond_sp : (s.respond r).sp = s.sp := rfl
@[simp] theorem State.respond_p : (s.respond r).p = s.p := rfl
@[simp] theorem State.respond_mem : (s.respond r).mem = s.mem := rfl
@[simp] theorem State.respond_cyc : (s.respond r).cyc = s.cyc := rfl
@[simp] theorem State.respond_response : (s.respond r).response = r := rfl
@[simp] theorem State.respond_pending : (s.respond r).pending = s.pending := rfl

end respond

section take
variable (r : Request) (rest : List Request) (s : State)

@[simp] theorem State.take_a : (s.take r rest).a = s.a := rfl
@[simp] theorem State.take_x : (s.take r rest).x = s.x := rfl
@[simp] theorem State.take_y : (s.take r rest).y = s.y := rfl
@[simp] theorem State.take_pc : (s.take r rest).pc = s.pc := rfl
@[simp] theorem State.take_sp : (s.take r rest).sp = s.sp := rfl
@[simp] theorem State.take_p : (s.take r rest).p = s.p := rfl
@[simp] theorem State.take_mem : (s.take r rest).mem = s.mem := rfl
@[simp] theorem State.take_cyc : (s.take r rest).cyc = r.budget.getD s.cyc := rfl
@[simp] theorem State.take_response : (s.take r rest).response = s.response := rfl
@[simp] theorem State.take_pending : (s.take r rest).pending = rest := rfl

end take

section issue
variable (w : Command) (s : State)

@[simp] theorem State.issue_a : (s.issue w).a = s.a := rfl
@[simp] theorem State.issue_x : (s.issue w).x = s.x := rfl
@[simp] theorem State.issue_y : (s.issue w).y = s.y := rfl
@[simp] theorem State.issue_pc : (s.issue w).pc = s.pc := rfl
@[simp] theorem State.issue_sp : (s.issue w).sp = s.sp := rfl
@[simp] theorem State.issue_p : (s.issue w).p = s.p := rfl
@[simp] theorem State.issue_mem : (s.issue w).mem = s.mem := rfl
@[simp] theorem State.issue_cyc : (s.issue w).cyc = s.cyc := rfl
@[simp] theorem State.issue_response : (s.issue w).response = s.response := rfl
@[simp] theorem State.issue_pending : (s.issue w).pending = ⟨w, Option.none⟩ :: s.pending := rfl

end issue

section withRegisters
variable (a x y : Byte) (q : Flags) (s : State)

@[simp] theorem State.withRegisters_a : (s.withRegisters a x y q).a = a := rfl
@[simp] theorem State.withRegisters_x : (s.withRegisters a x y q).x = x := rfl
@[simp] theorem State.withRegisters_y : (s.withRegisters a x y q).y = y := rfl
@[simp] theorem State.withRegisters_pc : (s.withRegisters a x y q).pc = s.pc := rfl
@[simp] theorem State.withRegisters_sp : (s.withRegisters a x y q).sp = s.sp := rfl
@[simp] theorem State.withRegisters_p : (s.withRegisters a x y q).p = q := rfl
@[simp] theorem State.withRegisters_mem : (s.withRegisters a x y q).mem = s.mem := rfl
@[simp] theorem State.withRegisters_cyc : (s.withRegisters a x y q).cyc = s.cyc := rfl
@[simp] theorem State.withRegisters_response : (s.withRegisters a x y q).response = s.response := rfl
@[simp] theorem State.withRegisters_pending : (s.withRegisters a x y q).pending = s.pending := rfl

end withRegisters

section issueAll
variable (is : List Instr) (s : State)

@[simp] theorem State.issueAll_a : (s.issueAll is).a = s.a := rfl
@[simp] theorem State.issueAll_x : (s.issueAll is).x = s.x := rfl
@[simp] theorem State.issueAll_y : (s.issueAll is).y = s.y := rfl
@[simp] theorem State.issueAll_pc : (s.issueAll is).pc = s.pc := rfl
@[simp] theorem State.issueAll_sp : (s.issueAll is).sp = s.sp := rfl
@[simp] theorem State.issueAll_p : (s.issueAll is).p = s.p := rfl
@[simp] theorem State.issueAll_mem : (s.issueAll is).mem = s.mem := rfl
@[simp] theorem State.issueAll_cyc : (s.issueAll is).cyc = s.cyc := rfl
@[simp] theorem State.issueAll_response : (s.issueAll is).response = s.response := rfl
@[simp] theorem State.issueAll_pending : (s.issueAll is).pending = is.map (fun i => ⟨encode i, Option.none⟩) ++ s.pending := rfl

end issueAll

end Sys2Proof.Machine
end

