-- ==== Sys2Proof/Laws/Ops.lean ====
section
/-! SUPPORT. Everything each shared operation can do, said once: what it returns, which fields it writes, what it does
to the cells, and that it keeps the memory's canonical form. -/

namespace Sys2Proof.Machine

/-- The processor port reads the cell at its address (R31, R33). -/
theorem memRead_zext32 (m : Memory) (a : Addr16) : memRead m (zext32 a) = m.cell a.toNat := by
  have h : (zext32 a).toNat < Config.memSize := by simpa [Config.memSize] using a.isLt
  simpa using memRead_inRange (m := m) h

/-- The processor port writes the cell at its address (R32, R33). -/
theorem cell_memWrite_zext32 {m : Memory} (h : m.wf = true) (a : Addr16) (v : Byte) (k : Nat) :
    (memWrite m (zext32 a) v).cell k = if k = a.toNat then v else m.cell k := by
  have ha : a.toNat < Config.memSize := by simpa [Config.memSize] using a.isLt
  simp [cell_memWrite h, ha]

theorem busRead_eq (a : Addr16) (s : State) : busRead a s = (s.mem.cell a.toNat, s.charge 1) := by
  simp [busRead, memRead_zext32, Config.accessCost]

theorem busReadWord_eq (a : Addr16) (s : State) :
    busReadWord a s = (makeWord (s.mem.cell ((a.toNat + 1) % 65536)) (s.mem.cell a.toNat), s.charge 2) := by
  simp only [busReadWord, busRead_eq, nextAddress_toNat, State.charge, Prod.mk.injEq, true_and]
  congr 1
  omega

theorem busWrite_eq (a : Addr16) (v : Byte) (s : State) :
    busWrite a v s = { s with mem := memWrite s.mem (zext32 a) v, cyc := s.cyc - 1 } := rfl

theorem busWriteWord_eq (a : Addr16) (v : Word) (s : State) :
    busWriteWord a v s =
      { s with
        mem := memWrite (memWrite s.mem (zext32 a) (loByte v)) (zext32 (nextAddress a)) (hiByte v)
        cyc := s.cyc - 2 } := by
  simp only [busWriteWord, busWrite_eq]
  congr 1
  omega

theorem fetchByte_eq (s : State) : fetchByte s = (s.mem.cell s.pc.toNat, (s.charge 1).setPc (s.pc + 1)) := by
  simp [fetchByte, busRead_eq]

theorem fetchWord_eq (s : State) :
    fetchWord s = (makeWord (s.mem.cell ((s.pc.toNat + 1) % 65536)) (s.mem.cell s.pc.toNat),
      (s.charge 2).setPc (s.pc + 2)) := by
  simp [fetchWord, busReadWord_eq]

theorem stackWrite_eq (v : Byte) (s : State) :
    stackWrite v s = { s with mem := memWrite s.mem (zext32 (stackAddress s.sp)) v, cyc := s.cyc - 1, sp := s.sp - 1 } :=
  rfl

theorem pushWord_eq (v : Word) (s : State) :
    pushWord v s =
      { s with
        mem := memWrite (memWrite s.mem (zext32 (stackAddress s.sp)) (hiByte v)) (zext32 (stackAddress (s.sp - 1)))
          (loByte v)
        cyc := s.cyc - 2
        sp := s.sp - 2 } := by
  simp only [pushWord, stackWrite_eq, State.mk.injEq, true_and, and_true]
  refine ⟨?_, by omega⟩
  rw [BitVec.sub_sub]
  rfl

theorem pushByte_eq (v : Byte) (s : State) :
    pushByte v s = { s with mem := memWrite s.mem (zext32 (stackAddress s.sp)) v, cyc := s.cyc - 2, sp := s.sp - 1 } := by
  simp only [pushByte, stackWrite_eq, State.charge, Config.stackStepCost, State.mk.injEq, true_and, and_true]
  omega

theorem popByte_eq (s : State) :
    popByte s = (s.mem.cell (256 + (s.sp + 1).toNat), { s with sp := s.sp + 1, cyc := s.cyc - 2 }) := by
  simp only [popByte, busRead_eq, State.charge, State.setSp, Config.stackStepCost, stackAddress_toNat, Prod.mk.injEq,
    true_and, State.mk.injEq, and_true]
  omega

theorem popWord_eq (s : State) :
    popWord s = (makeWord (s.mem.cell (258 + s.sp.toNat)) (s.mem.cell (257 + s.sp.toNat)),
      { s with sp := s.sp + 2, cyc := s.cyc - 2 }) := by
  have h := s.sp.isLt
  have e : (257 + s.sp.toNat + 1) % 65536 = 258 + s.sp.toNat := by omega
  simp [popWord, busReadWord_eq, State.charge, State.setSp, e]

/-- A word write does this to the cells (R103, R37). -/
theorem cell_busWriteWord {s : State} (h : s.mem.wf = true) (a : Addr16) (v : Word) (k : Nat) :
    (busWriteWord a v s).mem.cell k =
      if k = a.toNat then loByte v else if k = (a.toNat + 1) % 65536 then hiByte v else s.mem.cell k := by
  have hne := nextAddress_ne a
  rw [nextAddress_toNat] at hne
  rw [busWriteWord_eq]
  simp only [cell_memWrite_zext32 (wf_memWrite h _ _), cell_memWrite_zext32 h, nextAddress_toNat]
  by_cases h1 : k = a.toNat
  · rw [if_neg (by omega), if_pos h1, if_pos h1]
  · rw [if_neg h1, if_neg h1]

/-- A word push does this to the cells (R111). -/
theorem cell_pushWord {s : State} (h : s.mem.wf = true) (v : Word) (k : Nat) :
    (pushWord v s).mem.cell k =
      if k = 256 + (s.sp - 1).toNat then loByte v
      else if k = 256 + s.sp.toNat then hiByte v else s.mem.cell k := by
  rw [pushWord_eq]
  simp only [cell_memWrite_zext32 (wf_memWrite h _ _), cell_memWrite_zext32 h, stackAddress_toNat]

/-- A byte push does this to the cells (R115). -/
theorem cell_pushByte {s : State} (h : s.mem.wf = true) (v : Byte) (k : Nat) :
    (pushByte v s).mem.cell k = if k = 256 + s.sp.toNat then v else s.mem.cell k := by
  rw [pushByte_eq]
  simp only [cell_memWrite_zext32 h, stackAddress_toNat]

theorem wf_busWrite {s : State} (h : s.mem.wf = true) (a : Addr16) (v : Byte) : (busWrite a v s).mem.wf = true :=
  wf_memWrite h _ _

theorem wf_busWriteWord {s : State} (h : s.mem.wf = true) (a : Addr16) (v : Word) :
    (busWriteWord a v s).mem.wf = true :=
  wf_busWrite (wf_busWrite h _ _) _ _

theorem wf_stackWrite {s : State} (h : s.mem.wf = true) (v : Byte) : (stackWrite v s).mem.wf = true :=
  wf_memWrite h _ _

theorem wf_pushWord {s : State} (h : s.mem.wf = true) (v : Word) : (pushWord v s).mem.wf = true :=
  wf_stackWrite (wf_stackWrite h _) _

theorem wf_pushByte {s : State} (h : s.mem.wf = true) (v : Byte) : (pushByte v s).mem.wf = true :=
  wf_stackWrite h _

end Sys2Proof.Machine
end

