-- ==== Sys2Proof/Laws/Invariant.lean ====
section
/-! SUPPORT. The invariant through the updates of the state and through each shared operation. -/

namespace Sys2Proof.Machine

section
variable {s : State}

@[simp] theorem State.inv_setA (v : Byte) : (s.setA v).Inv ↔ s.Inv := Iff.rfl
@[simp] theorem State.inv_setX (v : Byte) : (s.setX v).Inv ↔ s.Inv := Iff.rfl
@[simp] theorem State.inv_setY (v : Byte) : (s.setY v).Inv ↔ s.Inv := Iff.rfl
@[simp] theorem State.inv_setPc (v : Word) : (s.setPc v).Inv ↔ s.Inv := Iff.rfl
@[simp] theorem State.inv_setSp (v : Byte) : (s.setSp v).Inv ↔ s.Inv := Iff.rfl
@[simp] theorem State.inv_setFlags (p : Flags) : (s.setFlags p).Inv ↔ s.Inv := Iff.rfl
@[simp] theorem State.inv_charge (k : Int) : (s.charge k).Inv ↔ s.Inv := Iff.rfl
@[simp] theorem State.inv_respond (r : Response) : (s.respond r).Inv ↔ s.Inv := Iff.rfl
@[simp] theorem State.inv_take (r : Request) (rest : List Request) : (s.take r rest).Inv ↔ s.Inv := Iff.rfl
@[simp] theorem State.inv_issue (w : Command) : (s.issue w).Inv ↔ s.Inv := Iff.rfl
@[simp] theorem State.inv_issueAll (is : List Instr) : (s.issueAll is).Inv ↔ s.Inv := Iff.rfl
@[simp] theorem State.inv_setMem (m : Memory) : (s.setMem m).Inv ↔ m.wf = true := Iff.rfl

theorem inv_memWrite (h : s.Inv) (a : Addr32) (v : Byte) : (s.setMem (memWrite s.mem a v)).Inv := wf_memWrite h a v
theorem inv_busRead (h : s.Inv) (a : Addr16) : (busRead a s).2.Inv := h
theorem inv_busReadWord (h : s.Inv) (a : Addr16) : (busReadWord a s).2.Inv := h
theorem inv_busWrite (h : s.Inv) (a : Addr16) (v : Byte) : (busWrite a v s).Inv := wf_busWrite h a v
theorem inv_busWriteWord (h : s.Inv) (a : Addr16) (v : Word) : (busWriteWord a v s).Inv := wf_busWriteWord h a v
theorem inv_fetchByte (h : s.Inv) : (fetchByte s).2.Inv := h
theorem inv_fetchWord (h : s.Inv) : (fetchWord s).2.Inv := h
theorem inv_pushWord (h : s.Inv) (v : Word) : (pushWord v s).Inv := wf_pushWord h v
theorem inv_pushByte (h : s.Inv) (v : Byte) : (pushByte v s).Inv := wf_pushByte h v
theorem inv_popByte (h : s.Inv) : (popByte s).2.Inv := h
theorem inv_popWord (h : s.Inv) : (popWord s).2.Inv := h

end

end Sys2Proof.Machine
end

