-- ==== Sys2Proof/Laws/PerInstr.lean ====
section
/-! SUPPORT. One lemma per constructor of `Instr`: the opcode map gives back the operation from its fields, with every
operand at every value its width admits (30_encoding.md rules R52, R53, R55). -/

namespace Sys2Proof.Laws.FieldsRoundTrip

/-- The opcode map on an operation's fields is that operation. -/
def Statement (i : Instr) : Prop := decodeFields i.fields = .ok i

theorem minit : Statement .minit := rfl

theorem mrd (addr : Addr32) : Statement (.mrd addr) := by
  simp [Statement, Instr.fields, decodeFields, accept, Fields.selZero, Fields.dataZero]

theorem mwr (addr : Addr32) (v : Byte) : Statement (.mwr addr v) := by
  simp [Statement, Instr.fields, decodeFields, accept, Fields.selZero, Fields.dataHighZero, Fields.byte]

theorem reset : Statement .reset := rfl

theorem rdregA : Statement .rdregA := rfl

theorem rdregX : Statement .rdregX := rfl

theorem rdregY : Statement .rdregY := rfl

theorem rdregSP : Statement .rdregSP := rfl

theorem rdregPC : Statement .rdregPC := rfl

theorem rdregP : Statement .rdregP := rfl

theorem wrregA (v : Byte) : Statement (.wrregA v) := by
  simp [Statement, Instr.fields, decodeFields, accept, decodeWrreg, acceptSB, Fields.addrZero, Fields.dataHighZero, Fields.byte]

theorem wrregX (v : Byte) : Statement (.wrregX v) := by
  simp [Statement, Instr.fields, decodeFields, accept, decodeWrreg, acceptSB, Fields.addrZero, Fields.dataHighZero, Fields.byte]

theorem wrregY (v : Byte) : Statement (.wrregY v) := by
  simp [Statement, Instr.fields, decodeFields, accept, decodeWrreg, acceptSB, Fields.addrZero, Fields.dataHighZero, Fields.byte]

theorem wrregSP (v : Byte) : Statement (.wrregSP v) := by
  simp [Statement, Instr.fields, decodeFields, accept, decodeWrreg, acceptSB, Fields.addrZero, Fields.dataHighZero, Fields.byte]

theorem wrregPC (v : Word) : Statement (.wrregPC v) := by
  simp [Statement, Instr.fields, decodeFields, accept, decodeWrreg, Fields.addrZero]

theorem wrregP (v : Byte) : Statement (.wrregP v) := by
  simp [Statement, Instr.fields, decodeFields, accept, decodeWrreg, acceptSB, Fields.addrZero, Fields.dataHighZero, Fields.byte]

theorem rdflgC : Statement .rdflgC := rfl

theorem rdflgZ : Statement .rdflgZ := rfl

theorem rdflgI : Statement .rdflgI := rfl

theorem rdflgD : Statement .rdflgD := rfl

theorem rdflgB : Statement .rdflgB := rfl

theorem rdflgU : Statement .rdflgU := rfl

theorem rdflgV : Statement .rdflgV := rfl

theorem rdflgN : Statement .rdflgN := rfl

theorem wrflgC (b : Bool) : Statement (.wrflgC b) := by cases b <;> rfl

theorem wrflgZ (b : Bool) : Statement (.wrflgZ b) := by cases b <;> rfl

theorem wrflgI (b : Bool) : Statement (.wrflgI b) := by cases b <;> rfl

theorem wrflgD (b : Bool) : Statement (.wrflgD b) := by cases b <;> rfl

theorem wrflgB (b : Bool) : Statement (.wrflgB b) := by cases b <;> rfl

theorem wrflgU (b : Bool) : Statement (.wrflgU b) := by cases b <;> rfl

theorem wrflgV (b : Bool) : Statement (.wrflgV b) := by cases b <;> rfl

theorem wrflgN (b : Bool) : Statement (.wrflgN b) := by cases b <;> rfl

theorem fetchb : Statement .fetchb := rfl

theorem fetchsb : Statement .fetchsb := rfl

theorem fetchw : Statement .fetchw := rfl

theorem rdb (addr : Addr16) : Statement (.rdb addr) := by
  simp [Statement, Instr.fields, decodeFields, accept, Fields.selZero, Fields.addrHighZero, Fields.dataZero, Fields.addr16]

theorem rdw (addr : Addr16) : Statement (.rdw addr) := by
  simp [Statement, Instr.fields, decodeFields, accept, Fields.selZero, Fields.addrHighZero, Fields.dataZero, Fields.addr16]

theorem wrb (v : Byte) (addr : Addr16) : Statement (.wrb v addr) := by
  simp [Statement, Instr.fields, decodeFields, accept, Fields.selZero, Fields.addrHighZero, Fields.dataHighZero, Fields.addr16, Fields.byte]

theorem wrw (v : Word) (addr : Addr16) : Statement (.wrw v addr) := by
  simp [Statement, Instr.fields, decodeFields, accept, Fields.selZero, Fields.addrHighZero, Fields.addr16]

theorem stkaddr : Statement .stkaddr := rfl

theorem pushw (v : Word) : Statement (.pushw v) := by
  simp [Statement, Instr.fields, decodeFields, accept, Fields.selZero, Fields.addrZero]

theorem pushpcm1 : Statement .pushpcm1 := rfl

theorem pushpcp1 : Statement .pushpcp1 := rfl

theorem pushpc : Statement .pushpc := rfl

theorem pushb (v : Byte) : Statement (.pushb v) := by
  simp [Statement, Instr.fields, decodeFields, accept, Fields.selZero, Fields.addrZero, Fields.dataHighZero, Fields.byte]

theorem popb : Statement .popb := rfl

theorem popw : Statement .popw := rfl

end Sys2Proof.Laws.FieldsRoundTrip
end

