-- ==== Sys2Proof/Tests/Slice0.lean ====
section
/-! SUPPORT. Tests. Expected results are from spec/95_test_vectors.md (the vector is named), from the worked examples in
the rules, or from the table in 30_encoding.md rule R55 and the rows of spec/opcode_table.json. No expected value was taken from this model. The last part
has a witness for every statement that has hypotheses. -/

namespace Sys2Proof.Tests
open Sys2Proof Sys2Proof.Machine

/-- The state of an outcome. -/
def nextOf (o : Host.Outcome State Fault Refusal) : Option State :=
  match o with
  | .next s => some s
  | _ => none

/-- The response and the state of an outcome, by a view of the state. -/
def seen {α : Type} (view : State → α) (o : Host.Outcome State Fault Refusal) : Option (Response × α) :=
  (nextOf o).map fun s => (s.response, view s)

/-- "Fresh" of 95_test_vectors.md, with a budget. -/
def fresh (cyc : Int) : State := { State.powerOn false with cyc := cyc }

/-- A memory holding these bytes. -/
def cells (l : List (Nat × Byte)) : Memory := l.foldl (fun m e => m.put e.1 e.2) Memory.initialised

/-- Fresh, with a budget of 10 and these bytes. -/
def loaded (l : List (Nat × Byte)) : State := { fresh 10 with mem := cells l }

/-! ### Decoding: one word for every constructor, written out from R51, R53 and R55 -/

theorem test_decode_controller :
    decode 0x1000000000000000 = .ok .minit ∧
    decode 0x1100FFFFFFFF0000 = .ok (.mrd 0xFFFFFFFF) ∧
    decode 0x1200000012340056 = .ok (.mwr 0x00001234 0x56) ∧
    decode 0x1200FFFFFFFF00FF = .ok (.mwr 0xFFFFFFFF 0xFF) := by
  exact ⟨rfl, rfl, rfl, rfl⟩

theorem test_decode_reset_and_register_reads :
    decode 0x2000000000000000 = .ok .reset ∧
    decode 0x2100000000000000 = .ok .rdregA ∧
    decode 0x2101000000000000 = .ok .rdregX ∧
    decode 0x2102000000000000 = .ok .rdregY ∧
    decode 0x2103000000000000 = .ok .rdregSP ∧
    decode 0x2104000000000000 = .ok .rdregPC ∧
    decode 0x2105000000000000 = .ok .rdregP := by
  exact ⟨rfl, rfl, rfl, rfl, rfl, rfl, rfl⟩

theorem test_decode_register_writes :
    decode 0x2200000000000042 = .ok (.wrregA 0x42) ∧
    decode 0x22010000000000FF = .ok (.wrregX 0xFF) ∧
    decode 0x2202000000000001 = .ok (.wrregY 0x01) ∧
    decode 0x22030000000000FD = .ok (.wrregSP 0xFD) ∧
    decode 0x220400000000FFFF = .ok (.wrregPC 0xFFFF) ∧
    decode 0x22050000000000C3 = .ok (.wrregP 0xC3) := by
  exact ⟨rfl, rfl, rfl, rfl, rfl, rfl⟩

theorem test_decode_flag_reads :
    decode 0x2300000000000000 = .ok .rdflgC ∧
    decode 0x2301000000000000 = .ok .rdflgZ ∧
    decode 0x2302000000000000 = .ok .rdflgI ∧
    decode 0x2303000000000000 = .ok .rdflgD ∧
    decode 0x2304000000000000 = .ok .rdflgB ∧
    decode 0x2305000000000000 = .ok .rdflgU ∧
    decode 0x2306000000000000 = .ok .rdflgV ∧
    decode 0x2307000000000000 = .ok .rdflgN := by
  exact ⟨rfl, rfl, rfl, rfl, rfl, rfl, rfl, rfl⟩

theorem test_decode_flag_writes :
    decode 0x2400000000000001 = .ok (.wrflgC true) ∧
    decode 0x2401000000000001 = .ok (.wrflgZ true) ∧
    decode 0x2402000000000001 = .ok (.wrflgI true) ∧
    decode 0x2403000000000001 = .ok (.wrflgD true) ∧
    decode 0x2404000000000001 = .ok (.wrflgB true) ∧
    decode 0x2405000000000001 = .ok (.wrflgU true) ∧
    decode 0x2406000000000001 = .ok (.wrflgV true) ∧
    decode 0x2407000000000001 = .ok (.wrflgN true) ∧
    decode 0x2407000000000000 = .ok (.wrflgN false) := by
  exact ⟨rfl, rfl, rfl, rfl, rfl, rfl, rfl, rfl, rfl⟩

theorem test_decode_fetch :
    decode 0x3000000000000000 = .ok .fetchb ∧
    decode 0x3100000000000000 = .ok .fetchsb ∧
    decode 0x3200000000000000 = .ok .fetchw := by
  exact ⟨rfl, rfl, rfl⟩

theorem test_decode_read_write :
    decode 0x4000000001000000 = .ok (.rdb 0x0100) ∧
    decode 0x4100000000FF0000 = .ok (.rdw 0x00FF) ∧
    decode 0x42000000010000AB = .ok (.wrb 0xAB 0x0100) ∧
    decode 0x4300000003001234 = .ok (.wrw 0x1234 0x0300) ∧
    decode 0x43000000FFFFFFFF = .ok (.wrw 0xFFFF 0xFFFF) := by
  exact ⟨rfl, rfl, rfl, rfl, rfl⟩

theorem test_decode_stack :
    decode 0x5000000000000000 = .ok .stkaddr ∧
    decode 0x5100000000001234 = .ok (.pushw 0x1234) ∧
    decode 0x5200000000000000 = .ok .pushpcm1 ∧
    decode 0x5300000000000000 = .ok .pushpcp1 ∧
    decode 0x5400000000000000 = .ok .pushpc ∧
    decode 0x550000000000005A = .ok (.pushb 0x5A) ∧
    decode 0x5600000000000000 = .ok .popb ∧
    decode 0x5700000000000000 = .ok .popw := by
  exact ⟨rfl, rfl, rfl, rfl, rfl, rfl, rfl, rfl⟩

theorem test_encode_controller :
    encode .minit = 0x1000000000000000 ∧
    encode (.mrd 0xFFFFFFFF) = 0x1100FFFFFFFF0000 ∧
    encode (.mwr 0x00001234 0x56) = 0x1200000012340056 ∧
    encode (.mwr 0xFFFFFFFF 0xFF) = 0x1200FFFFFFFF00FF := by
  decide

theorem test_encode_reset_and_register_reads :
    encode .reset = 0x2000000000000000 ∧
    encode .rdregA = 0x2100000000000000 ∧
    encode .rdregX = 0x2101000000000000 ∧
    encode .rdregY = 0x2102000000000000 ∧
    encode .rdregSP = 0x2103000000000000 ∧
    encode .rdregPC = 0x2104000000000000 ∧
    encode .rdregP = 0x2105000000000000 := by
  decide

theorem test_encode_register_writes :
    encode (.wrregA 0x42) = 0x2200000000000042 ∧
    encode (.wrregX 0xFF) = 0x22010000000000FF ∧
    encode (.wrregY 0x01) = 0x2202000000000001 ∧
    encode (.wrregSP 0xFD) = 0x22030000000000FD ∧
    encode (.wrregPC 0xFFFF) = 0x220400000000FFFF ∧
    encode (.wrregP 0xC3) = 0x22050000000000C3 := by
  decide

theorem test_encode_flag_reads :
    encode .rdflgC = 0x2300000000000000 ∧
    encode .rdflgZ = 0x2301000000000000 ∧
    encode .rdflgI = 0x2302000000000000 ∧
    encode .rdflgD = 0x2303000000000000 ∧
    encode .rdflgB = 0x2304000000000000 ∧
    encode .rdflgU = 0x2305000000000000 ∧
    encode .rdflgV = 0x2306000000000000 ∧
    encode .rdflgN = 0x2307000000000000 := by
  decide

theorem test_encode_flag_writes :
    encode (.wrflgC true) = 0x2400000000000001 ∧
    encode (.wrflgZ true) = 0x2401000000000001 ∧
    encode (.wrflgI true) = 0x2402000000000001 ∧
    encode (.wrflgD true) = 0x2403000000000001 ∧
    encode (.wrflgB true) = 0x2404000000000001 ∧
    encode (.wrflgU true) = 0x2405000000000001 ∧
    encode (.wrflgV true) = 0x2406000000000001 ∧
    encode (.wrflgN true) = 0x2407000000000001 ∧
    encode (.wrflgN false) = 0x2407000000000000 := by
  decide

theorem test_encode_fetch :
    encode .fetchb = 0x3000000000000000 ∧
    encode .fetchsb = 0x3100000000000000 ∧
    encode .fetchw = 0x3200000000000000 := by
  decide

theorem test_encode_read_write :
    encode (.rdb 0x0100) = 0x4000000001000000 ∧
    encode (.rdw 0x00FF) = 0x4100000000FF0000 ∧
    encode (.wrb 0xAB 0x0100) = 0x42000000010000AB ∧
    encode (.wrw 0x1234 0x0300) = 0x4300000003001234 ∧
    encode (.wrw 0xFFFF 0xFFFF) = 0x43000000FFFFFFFF := by
  decide

theorem test_encode_stack :
    encode .stkaddr = 0x5000000000000000 ∧
    encode (.pushw 0x1234) = 0x5100000000001234 ∧
    encode .pushpcm1 = 0x5200000000000000 ∧
    encode .pushpcp1 = 0x5300000000000000 ∧
    encode .pushpc = 0x5400000000000000 ∧
    encode (.pushb 0x5A) = 0x550000000000005A ∧
    encode .popb = 0x5600000000000000 ∧
    encode .popw = 0x5700000000000000 := by
  decide

/-- X1 to X8. -/
theorem test_decode_reserved_by_code :
    decode 0x0000000000000000 = .error .unassignedOp ∧ decode 0xFFFFFFFFFFFFFFFF = .error .unassignedOp ∧
    decode 0x1300000000000000 = .error .unassignedOp ∧ decode 0x2500000000000000 = .error .unassignedOp ∧
    decode 0x3300000000000000 = .error .unassignedOp ∧ decode 0x4400000000000000 = .error .unassignedOp ∧
    decode 0x5800000000000000 = .error .unassignedOp ∧ decode 0x6000000000000000 = .error .unassignedOp := by
  exact ⟨rfl, rfl, rfl, rfl, rfl, rfl, rfl, rfl⟩

/-- X9 to X12. -/
theorem test_decode_reserved_by_selector :
    decode 0x2106000000000000 = .error .selectorOutOfRange ∧ decode 0x2206000000000000 = .error .selectorOutOfRange ∧
    decode 0x2308000000000000 = .error .selectorOutOfRange ∧ decode 0x24FF000000000001 = .error .selectorOutOfRange := by
  exact ⟨rfl, rfl, rfl, rfl⟩

/-- X13 to X24. -/
theorem test_decode_reserved_by_unused_bit :
    decode 0x2405000000000002 = .error .mustBeZero ∧ decode 0x2200000000000142 = .error .mustBeZero ∧
    decode 0x2104000000000001 = .error .mustBeZero ∧ decode 0x4000000100000000 = .error .mustBeZero ∧
    decode 0x42000000010001AB = .error .mustBeZero ∧ decode 0x5500000000000100 = .error .mustBeZero ∧
    decode 0x5700000000000001 = .error .mustBeZero ∧ decode 0x2001000000000000 = .error .mustBeZero ∧
    decode 0x1101000000000000 = .error .mustBeZero ∧ decode 0x1100000012340001 = .error .mustBeZero ∧
    decode 0x3000000000010000 = .error .mustBeZero ∧ decode 0x5100000000011234 = .error .mustBeZero := by
  exact ⟨rfl, rfl, rfl, rfl, rfl, rfl, rfl, rfl, rfl, rfl, rfl, rfl⟩

/-! ### The rows of the opcode map against spec/opcode_table.json: mask and match of every row -/

theorem test_controllerRows :
    controllerRows.map (fun r => (r.mnemonic, r.mask, r.pattern)) =
      [("MINIT", 0xFFFFFFFFFFFFFFFF#64, 0x1000000000000000#64),
       ("MRD", 0xFFFF00000000FFFF#64, 0x1100000000000000#64),
       ("MWR", 0xFFFF00000000FF00#64, 0x1200000000000000#64)] := by
  decide

theorem test_rdregRows :
    rdregRows.map (fun r => (r.mnemonic, r.mask, r.pattern)) =
      [("RESET", 0xFFFFFFFFFFFFFFFF#64, 0x2000000000000000#64),
       ("RDREG_A", 0xFFFFFFFFFFFFFFFF#64, 0x2100000000000000#64),
       ("RDREG_X", 0xFFFFFFFFFFFFFFFF#64, 0x2101000000000000#64),
       ("RDREG_Y", 0xFFFFFFFFFFFFFFFF#64, 0x2102000000000000#64),
       ("RDREG_SP", 0xFFFFFFFFFFFFFFFF#64, 0x2103000000000000#64),
       ("RDREG_PC", 0xFFFFFFFFFFFFFFFF#64, 0x2104000000000000#64),
       ("RDREG_P", 0xFFFFFFFFFFFFFFFF#64, 0x2105000000000000#64)] := by
  decide

theorem test_wrregRows :
    wrregRows.map (fun r => (r.mnemonic, r.mask, r.pattern)) =
      [("WRREG_A", 0xFFFFFFFFFFFFFF00#64, 0x2200000000000000#64),
       ("WRREG_X", 0xFFFFFFFFFFFFFF00#64, 0x2201000000000000#64),
       ("WRREG_Y", 0xFFFFFFFFFFFFFF00#64, 0x2202000000000000#64),
       ("WRREG_SP", 0xFFFFFFFFFFFFFF00#64, 0x2203000000000000#64),
       ("WRREG_PC", 0xFFFFFFFFFFFF0000#64, 0x2204000000000000#64),
       ("WRREG_P", 0xFFFFFFFFFFFFFF00#64, 0x2205000000000000#64)] := by
  decide

theorem test_rdflgRows :
    rdflgRows.map (fun r => (r.mnemonic, r.mask, r.pattern)) =
      [("RDFLG_C", 0xFFFFFFFFFFFFFFFF#64, 0x2300000000000000#64),
       ("RDFLG_Z", 0xFFFFFFFFFFFFFFFF#64, 0x2301000000000000#64),
       ("RDFLG_I", 0xFFFFFFFFFFFFFFFF#64, 0x2302000000000000#64),
       ("RDFLG_D", 0xFFFFFFFFFFFFFFFF#64, 0x2303000000000000#64),
       ("RDFLG_B", 0xFFFFFFFFFFFFFFFF#64, 0x2304000000000000#64),
       ("RDFLG_U", 0xFFFFFFFFFFFFFFFF#64, 0x2305000000000000#64),
       ("RDFLG_V", 0xFFFFFFFFFFFFFFFF#64, 0x2306000000000000#64),
       ("RDFLG_N", 0xFFFFFFFFFFFFFFFF#64, 0x2307000000000000#64)] := by
  decide

theorem test_wrflgRows :
    wrflgRows.map (fun r => (r.mnemonic, r.mask, r.pattern)) =
      [("WRFLG_C", 0xFFFFFFFFFFFFFFFE#64, 0x2400000000000000#64),
       ("WRFLG_Z", 0xFFFFFFFFFFFFFFFE#64, 0x2401000000000000#64),
       ("WRFLG_I", 0xFFFFFFFFFFFFFFFE#64, 0x2402000000000000#64),
       ("WRFLG_D", 0xFFFFFFFFFFFFFFFE#64, 0x2403000000000000#64),
       ("WRFLG_B", 0xFFFFFFFFFFFFFFFE#64, 0x2404000000000000#64),
       ("WRFLG_U", 0xFFFFFFFFFFFFFFFE#64, 0x2405000000000000#64),
       ("WRFLG_V", 0xFFFFFFFFFFFFFFFE#64, 0x2406000000000000#64),
       ("WRFLG_N", 0xFFFFFFFFFFFFFFFE#64, 0x2407000000000000#64)] := by
  decide

theorem test_fetchRows :
    fetchRows.map (fun r => (r.mnemonic, r.mask, r.pattern)) =
      [("FETCHB", 0xFFFFFFFFFFFFFFFF#64, 0x3000000000000000#64),
       ("FETCHSB", 0xFFFFFFFFFFFFFFFF#64, 0x3100000000000000#64),
       ("FETCHW", 0xFFFFFFFFFFFFFFFF#64, 0x3200000000000000#64)] := by
  decide

theorem test_accessRows :
    accessRows.map (fun r => (r.mnemonic, r.mask, r.pattern)) =
      [("RDB", 0xFFFFFFFF0000FFFF#64, 0x4000000000000000#64),
       ("RDW", 0xFFFFFFFF0000FFFF#64, 0x4100000000000000#64),
       ("WRB", 0xFFFFFFFF0000FF00#64, 0x4200000000000000#64),
       ("WRW", 0xFFFFFFFF00000000#64, 0x4300000000000000#64)] := by
  decide

theorem test_stackRows :
    stackRows.map (fun r => (r.mnemonic, r.mask, r.pattern)) =
      [("STKADDR", 0xFFFFFFFFFFFFFFFF#64, 0x5000000000000000#64),
       ("PUSHW", 0xFFFFFFFFFFFF0000#64, 0x5100000000000000#64),
       ("PUSHPCM1", 0xFFFFFFFFFFFFFFFF#64, 0x5200000000000000#64),
       ("PUSHPCP1", 0xFFFFFFFFFFFFFFFF#64, 0x5300000000000000#64),
       ("PUSHPC", 0xFFFFFFFFFFFFFFFF#64, 0x5400000000000000#64),
       ("PUSHB", 0xFFFFFFFFFFFFFF00#64, 0x5500000000000000#64),
       ("POPB", 0xFFFFFFFFFFFFFFFF#64, 0x5600000000000000#64),
       ("POPW", 0xFFFFFFFFFFFFFFFF#64, 0x5700000000000000#64)] := by
  decide

/-- The decoder's own table functions, on a row's word with zero operands, and on a word too long. -/
theorem test_decodeTableWord :
    decodeTableWord 64 0x5700000000000000 = some .popw ∧ decodeTableWord 64 0x4300000000000000 = some (.wrw 0 0) ∧
    decodeTableWord 64 0x1300000000000000 = none ∧ decodeTableWord 72 0x015700000000000000 = none := by
  decide

/-! ### Well-formedness: an ill-formed command for each check, which the check and the assembler refuse -/

/-- The shape check: too few operands, too many, the wrong kind. -/
theorem test_wellFormed_shape :
    Source.wellFormed ⟨.MRD, []⟩ = false ∧ Source.wellFormed ⟨.RESET, [.num 0]⟩ = false ∧
    Source.wellFormed ⟨.RDREG, [.flag .C]⟩ = false ∧ Source.wellFormed ⟨.WRFLG, [.num 0, .num 1]⟩ = false ∧
    Source.shapeOk ⟨.RDREG, [.flag .C]⟩ = false ∧ Source.widthsOk ⟨.RDREG, [.flag .C]⟩ = true := by
  decide

/-- The width check: R58's own example, `WRB 0x1AB, 0x0100`; and the first number too wide for each width. -/
theorem test_wellFormed_width :
    Source.wellFormed ⟨.WRB, [.num 0x1AB, .num 0x0100]⟩ = false ∧ Source.wellFormed ⟨.MRD, [.num 0x100000000]⟩ = false ∧
    Source.wellFormed ⟨.RDB, [.num 0x10000]⟩ = false ∧ Source.wellFormed ⟨.WRFLG, [.flag .U, .num 2]⟩ = false ∧
    Source.wellFormed ⟨.WRREG, [.reg .A, .num 0x100]⟩ = false ∧
    Source.shapeOk ⟨.WRREG, [.reg .A, .num 0x100]⟩ = true ∧ Source.widthsOk ⟨.WRREG, [.reg .A, .num 0x100]⟩ = false := by
  decide

/-- Commands that are well formed. -/
theorem test_wellFormed_accepts :
    Source.wellFormed ⟨.WRREG, [.reg .PC, .num 0x100]⟩ = true ∧ Source.wellFormed ⟨.MRD, [.num 0xFFFFFFFF]⟩ = true ∧
    Source.wellFormed ⟨.WRB, [.num 0xAB, .num 0x0100]⟩ = true ∧ Source.wellFormed ⟨.POPW, []⟩ = true := by
  decide

theorem test_assemble_refuses :
    assemble ⟨.RDREG, [.flag .C]⟩ = .error .wrongOperands ∧
    assemble ⟨.WRB, [.num 0x1AB, .num 0x0100]⟩ = .error .operandTooWide := by
  exact ⟨rfl, rfl⟩

/-- A whole line of text: the operand order of R58 (`MWR` the address first, `WRB` the value first), a comment, and the
two pseudo names of R59. -/
theorem test_parseLine :
    parseLine "MWR 0x1234, 0x56 ; load".toList = .ok (some (.command (.mwr 0x00001234 0x56))) ∧
    parseLine "WRB 0xAB, 256".toList = .ok (some (.command (.wrb 0xAB 0x0100))) ∧
    parseLine "SETPC 0x0200".toList = .ok (some (.command (.wrregPC 0x0200))) ∧
    parseLine "SETCYC 1000".toList = .ok (some (.setCyc 1000)) ∧
    parseLine "WRFLG U, 1".toList = .ok (some (.command (.wrflgU true))) ∧
    parseLine "NOP".toList = .error .unknownMnemonic := by
  exact ⟨rfl, rfl, rfl, rfl, rfl, rfl⟩

/-! ### The memory's canonical form -/

/-- Writes in any order give one list; writing the cleared value removes the entry. -/
theorem test_memory_canonical :
    cells [(3, 0x11), (1, 0x22), (3, 0x33)] = [(1, 0x22), (3, 0x33)] ∧
    cells [(3, 0x11), (1, 0x22), (3, 0x00)] = [(1, 0x22)] ∧ Memory.wf (cells [(0xFFFF, 1), (0, 2)]) = true := by
  decide

/-- What the canonical form shuts out: a falling order, a repeat, a cleared entry, an address outside the array. -/
theorem test_memory_not_canonical :
    Memory.wf [(3, 0x11), (1, 0x22)] = false ∧ Memory.wf [(1, 0x11), (1, 0x22)] = false ∧
    Memory.wf [(1, 0x00)] = false ∧ Memory.wf [(65536, 0x11)] = false := by
  decide

/-! ### One step of each operation -/

/-- M1. -/
theorem test_minit :
    nextOf (exec .minit (loaded [(0, 0x11), (0xFFFF, 0x22), (0x01FF, 0x33)])) = some (fresh 10) := by
  decide

/-- M3. -/
theorem test_mrd :
    seen (fun s => s.cyc) (exec (.mrd 0x0000FFFF) (loaded [(0xFFFF, 0x22)])) = some (.byte 0x22, 10) := by
  decide

/-- M5: out of range, no aliasing onto 0xFFFF. -/
theorem test_mrd_no_alias :
    seen (fun s => s.cyc) (exec (.mrd 0x0001FFFF) (loaded [(0xFFFF, 0x22)])) = some (.byte 0x00, 10) := by
  decide

/-- M8. -/
theorem test_mwr :
    seen (fun s => (s.mem, s.cyc)) (exec (.mwr 0x0000FFFF 0x22) (fresh 7)) = some (.none, [(0xFFFF, 0x22)], 7) := by
  decide

/-- M9. -/
theorem test_mwr_discarded :
    seen (fun s => (s.mem, s.cyc)) (exec (.mwr 0x00010000 0x33) (loaded [(0, 0x11)])) = some (.none, [(0, 0x11)], 10) := by
  decide

/-- S4: only `P.U` keeps its 1. -/
theorem test_reset :
    nextOf (exec .reset { loaded [(0x0200, 0x99)] with a := 0x42, pc := 0x1234, sp := 0x80, p := Flags.fromByte 0xFF }) =
      some { State.powerOn true with cyc := 10 } := by
  decide

/-- S5. -/
theorem test_reset_unused_clear :
    (nextOf (exec .reset { fresh (-5) with p := Flags.fromByte 0xDF })).map (fun s => (s.p.toByte, s.cyc)) =
      some (0x00, -5) := by
  decide

/-- R81; S16, S17 for the shape. -/
theorem test_rdregA :
    seen (fun s => s.cyc) (exec .rdregA { fresh 3 with a := 0x42 }) = some (.byte 0x42, 3) := by
  decide

/-- R81; S16, S17 for the shape. -/
theorem test_rdregX :
    seen (fun s => s.cyc) (exec .rdregX { fresh 3 with x := 0x42 }) = some (.byte 0x42, 3) := by
  decide

/-- R81; S16, S17 for the shape. -/
theorem test_rdregY :
    seen (fun s => s.cyc) (exec .rdregY { fresh 3 with y := 0x42 }) = some (.byte 0x42, 3) := by
  decide

/-- R81; S16, S17 for the shape. -/
theorem test_rdregSP :
    seen (fun s => s.cyc) (exec .rdregSP { fresh 3 with sp := 0x80 }) = some (.byte 0x80, 3) := by
  decide

/-- R81; S16, S17 for the shape. -/
theorem test_rdregPC :
    seen (fun s => s.cyc) (exec .rdregPC { fresh 3 with pc := 0x1234 }) = some (.word 0x1234, 3) := by
  decide

/-- S13. -/
theorem test_rdregP :
    seen (fun s => s.cyc) (exec .rdregP { fresh 3 with p := ⟨true, true, false, false, false, false, true, true⟩ }) =
      some (.byte 0xC3, 3) := by
  decide

/-- S2. -/
theorem test_rdregP_unused :
    seen (fun s => s.cyc) (exec .rdregP (State.powerOn true)) = some (.byte 0x20, 0) := by
  decide

/-- S7. -/
theorem test_wrregA :
    nextOf (exec (.wrregA 0x42) (fresh 3)) = some { fresh 3 with a := 0x42 } := by
  decide

/-- S8. -/
theorem test_wrregX :
    nextOf (exec (.wrregX 0xFF) (fresh 3)) = some { fresh 3 with x := 0xFF } := by
  decide

/-- S9. -/
theorem test_wrregY :
    nextOf (exec (.wrregY 0x01) (fresh 3)) = some { fresh 3 with y := 0x01 } := by
  decide

/-- S10. -/
theorem test_wrregSP :
    nextOf (exec (.wrregSP 0xFD) (fresh 3)) = some { fresh 3 with sp := 0xFD } := by
  decide

/-- S11. -/
theorem test_wrregPC :
    nextOf (exec (.wrregPC 0xFFFF) (fresh 3)) = some { fresh 3 with pc := 0xFFFF } := by
  decide

/-- S12. -/
theorem test_wrregP :
    (nextOf (exec (.wrregP 0xC3) (fresh 3))).map State.p =
      some ⟨true, true, false, false, false, false, true, true⟩ := by
  decide

/-- R83, with the masks of R15. -/
theorem test_rdflgC :
    seen (fun s => s.cyc) (exec .rdflgC { fresh 3 with p := Flags.fromByte 0x01 }) = some (.bit true, 3) ∧
    seen (fun s => s.cyc) (exec .rdflgC { fresh 3 with p := Flags.fromByte 0xFE }) = some (.bit false, 3) := by
  decide

/-- R83, with the masks of R15. -/
theorem test_rdflgZ :
    seen (fun s => s.cyc) (exec .rdflgZ { fresh 3 with p := Flags.fromByte 0x02 }) = some (.bit true, 3) ∧
    seen (fun s => s.cyc) (exec .rdflgZ { fresh 3 with p := Flags.fromByte 0xFD }) = some (.bit false, 3) := by
  decide

/-- R83, with the masks of R15. -/
theorem test_rdflgI :
    seen (fun s => s.cyc) (exec .rdflgI { fresh 3 with p := Flags.fromByte 0x04 }) = some (.bit true, 3) ∧
    seen (fun s => s.cyc) (exec .rdflgI { fresh 3 with p := Flags.fromByte 0xFB }) = some (.bit false, 3) := by
  decide

/-- R83, with the masks of R15. -/
theorem test_rdflgD :
    seen (fun s => s.cyc) (exec .rdflgD { fresh 3 with p := Flags.fromByte 0x08 }) = some (.bit true, 3) ∧
    seen (fun s => s.cyc) (exec .rdflgD { fresh 3 with p := Flags.fromByte 0xF7 }) = some (.bit false, 3) := by
  decide

/-- R83, with the masks of R15. -/
theorem test_rdflgB :
    seen (fun s => s.cyc) (exec .rdflgB { fresh 3 with p := Flags.fromByte 0x10 }) = some (.bit true, 3) ∧
    seen (fun s => s.cyc) (exec .rdflgB { fresh 3 with p := Flags.fromByte 0xEF }) = some (.bit false, 3) := by
  decide

/-- R83, with the masks of R15. -/
theorem test_rdflgU :
    seen (fun s => s.cyc) (exec .rdflgU { fresh 3 with p := Flags.fromByte 0x20 }) = some (.bit true, 3) ∧
    seen (fun s => s.cyc) (exec .rdflgU { fresh 3 with p := Flags.fromByte 0xDF }) = some (.bit false, 3) := by
  decide

/-- R83, with the masks of R15. -/
theorem test_rdflgV :
    seen (fun s => s.cyc) (exec .rdflgV { fresh 3 with p := Flags.fromByte 0x40 }) = some (.bit true, 3) ∧
    seen (fun s => s.cyc) (exec .rdflgV { fresh 3 with p := Flags.fromByte 0xBF }) = some (.bit false, 3) := by
  decide

/-- R83, with the masks of R15. -/
theorem test_rdflgN :
    seen (fun s => s.cyc) (exec .rdflgN { fresh 3 with p := Flags.fromByte 0x80 }) = some (.bit true, 3) ∧
    seen (fun s => s.cyc) (exec .rdflgN { fresh 3 with p := Flags.fromByte 0x7F }) = some (.bit false, 3) := by
  decide

/-- S18; S26 and S27 for the clearing. -/
theorem test_wrflgC :
    (nextOf (exec (.wrflgC true) (fresh 3))).map (fun s => s.p.toByte) = some 0x01 ∧
    (nextOf (exec (.wrflgC false) { fresh 3 with p := Flags.fromByte 0xFF })).map (fun s => s.p.toByte) = some 0xFE := by
  decide

/-- S19; S26 and S27 for the clearing. -/
theorem test_wrflgZ :
    (nextOf (exec (.wrflgZ true) (fresh 3))).map (fun s => s.p.toByte) = some 0x02 ∧
    (nextOf (exec (.wrflgZ false) { fresh 3 with p := Flags.fromByte 0xFF })).map (fun s => s.p.toByte) = some 0xFD := by
  decide

/-- S20; S26 and S27 for the clearing. -/
theorem test_wrflgI :
    (nextOf (exec (.wrflgI true) (fresh 3))).map (fun s => s.p.toByte) = some 0x04 ∧
    (nextOf (exec (.wrflgI false) { fresh 3 with p := Flags.fromByte 0xFF })).map (fun s => s.p.toByte) = some 0xFB := by
  decide

/-- S21; S26 and S27 for the clearing. -/
theorem test_wrflgD :
    (nextOf (exec (.wrflgD true) (fresh 3))).map (fun s => s.p.toByte) = some 0x08 ∧
    (nextOf (exec (.wrflgD false) { fresh 3 with p := Flags.fromByte 0xFF })).map (fun s => s.p.toByte) = some 0xF7 := by
  decide

/-- S22; S26 and S27 for the clearing. -/
theorem test_wrflgB :
    (nextOf (exec (.wrflgB true) (fresh 3))).map (fun s => s.p.toByte) = some 0x10 ∧
    (nextOf (exec (.wrflgB false) { fresh 3 with p := Flags.fromByte 0xFF })).map (fun s => s.p.toByte) = some 0xEF := by
  decide

/-- S23; S26 and S27 for the clearing. -/
theorem test_wrflgU :
    (nextOf (exec (.wrflgU true) (fresh 3))).map (fun s => s.p.toByte) = some 0x20 ∧
    (nextOf (exec (.wrflgU false) { fresh 3 with p := Flags.fromByte 0xFF })).map (fun s => s.p.toByte) = some 0xDF := by
  decide

/-- S24; S26 and S27 for the clearing. -/
theorem test_wrflgV :
    (nextOf (exec (.wrflgV true) (fresh 3))).map (fun s => s.p.toByte) = some 0x40 ∧
    (nextOf (exec (.wrflgV false) { fresh 3 with p := Flags.fromByte 0xFF })).map (fun s => s.p.toByte) = some 0xBF := by
  decide

/-- S25; S26 and S27 for the clearing. -/
theorem test_wrflgN :
    (nextOf (exec (.wrflgN true) (fresh 3))).map (fun s => s.p.toByte) = some 0x80 ∧
    (nextOf (exec (.wrflgN false) { fresh 3 with p := Flags.fromByte 0xFF })).map (fun s => s.p.toByte) = some 0x7F := by
  decide

/-- F2: `PC` wraps. -/
theorem test_fetchb :
    seen (fun s => (s.pc, s.cyc)) (exec .fetchb { loaded [(0xFFFF, 0x34)] with pc := 0xFFFF, cyc := 1 }) =
      some (.byte 0x34, 0x0000, 0) := by
  decide

/-- F5c. -/
theorem test_fetchb_unsigned :
    (nextOf (exec .fetchb { loaded [(0x0200, 0xFF)] with pc := 0x0200 })).map (fun s => s.response.toRes) =
      some 0x00FF := by
  decide

/-- F3. -/
theorem test_fetchsb :
    (nextOf (exec .fetchsb { loaded [(0x0200, 0x80)] with pc := 0x0200, cyc := 0 })).map
      (fun s => (s.response.value, s.response.toRes, s.pc, s.cyc)) = some (some (-128), 0xFF80, 0x0201, -1) := by
  decide

/-- F4. -/
theorem test_fetchsb_positive :
    (nextOf (exec .fetchsb { loaded [(0x0200, 0x7F)] with pc := 0x0200 })).map
      (fun s => (s.response.value, s.response.toRes)) = some (some 127, 0x007F) := by
  decide

/-- F6: the high byte comes from 0x0000. -/
theorem test_fetchw :
    seen (fun s => (s.pc, s.cyc)) (exec .fetchw { loaded [(0xFFFF, 0x34), (0, 0x12)] with pc := 0xFFFF, cyc := 0 }) =
      some (.word 0x1234, 0x0001, -2) := by
  decide

/-- F8. -/
theorem test_fetchw_order :
    seen (fun s => (s.pc, s.cyc)) (exec .fetchw { loaded [(0x01FF, 0x11), (0x0200, 0x22)] with pc := 0x01FF }) =
      some (.word 0x2211, 0x0201, 8) := by
  decide

/-- W1. -/
theorem test_rdb :
    seen (fun s => (s.pc, s.cyc)) (exec (.rdb 0x0100) { loaded [(0x0100, 0xAB)] with pc := 0x4000 }) =
      some (.byte 0xAB, 0x4000, 9) := by
  decide

/-- W4. -/
theorem test_rdw :
    seen (fun s => (s.pc, s.cyc)) (exec (.rdw 0xFFFF) (loaded [(0xFFFF, 0xEF), (0, 0xBE)])) = some (.word 0xBEEF, 0xFFFC, 8) := by
  decide

/-- E7. -/
theorem test_rdw_order :
    seen (fun s => (s.pc, s.cyc)) (exec (.rdw 0x0100) (loaded [(0x0100, 0xAB), (0x0101, 0xCD)])) = some (.word 0xCDAB, 0xFFFC, 8) := by
  decide

/-- W5. -/
theorem test_wrb :
    seen (fun s => (s.mem, s.cyc)) (exec (.wrb 0xAB 0x0100) (fresh 10)) = some (.none, [(0x0100, 0xAB)], 9) := by
  decide

/-- W6: a zero is stored like any value. -/
theorem test_wrb_zero :
    seen (fun s => (s.mem, s.cyc)) (exec (.wrb 0x00 0xFFFF) (loaded [(0xFFFF, 0x22)])) = some (.none, [], 9) := by
  decide

/-- W8. -/
theorem test_wrw :
    seen (fun s => (s.mem, s.cyc)) (exec (.wrw 0xCDAB 0xFFFF) (fresh 10)) = some (.none, [(0, 0xCD), (0xFFFF, 0xAB)], 8) := by
  decide

/-- W7. -/
theorem test_wrw_order :
    seen (fun s => (s.mem, s.cyc)) (exec (.wrw 0x1234 0x0300) (fresh 10)) = some (.none, [(0x0300, 0x34), (0x0301, 0x12)], 8) := by
  decide

/-- K1, K2. -/
theorem test_stkaddr :
    seen (fun s => (s.sp, s.cyc)) (exec .stkaddr { fresh 10 with sp := 0x00 }) = some (.word 0x0100, 0x00, 10) ∧
    seen (fun s => (s.sp, s.cyc)) (exec .stkaddr (fresh 10)) = some (.word 0x01FF, 0xFF, 10) := by
  decide

/-- K3. -/
theorem test_pushw :
    seen (fun s => (s.mem, s.sp, s.pc, s.cyc)) (exec (.pushw 0x1234) (fresh 10)) =
      some (.none, [(0x01FE, 0x34), (0x01FF, 0x12)], 0xFD, 0xFFFC, 8) := by
  decide

/-- K4. -/
theorem test_pushw_wrap :
    seen (fun s => (s.mem, s.sp, s.pc, s.cyc)) (exec (.pushw 0x5678) { fresh 10 with sp := 0x00 }) =
      some (.none, [(0x0100, 0x56), (0x01FF, 0x78)], 0xFE, 0xFFFC, 8) := by
  decide

/-- K6. -/
theorem test_pushpcm1 :
    seen (fun s => (s.mem, s.sp, s.pc, s.cyc)) (exec .pushpcm1 { fresh 10 with pc := 0x8003 }) =
      some (.none, [(0x01FE, 0x02), (0x01FF, 0x80)], 0xFD, 0x8003, 8) := by
  decide

/-- K9. -/
theorem test_pushpcm1_wrap :
    seen (fun s => (s.mem, s.sp, s.pc, s.cyc)) (exec .pushpcm1 { fresh 10 with pc := 0x0000 }) =
      some (.none, [(0x01FE, 0xFF), (0x01FF, 0xFF)], 0xFD, 0x0000, 8) := by
  decide

/-- K7. -/
theorem test_pushpcp1 :
    seen (fun s => (s.mem, s.sp, s.pc, s.cyc)) (exec .pushpcp1 { fresh 10 with pc := 0x8003 }) =
      some (.none, [(0x01FE, 0x04), (0x01FF, 0x80)], 0xFD, 0x8003, 8) := by
  decide

/-- K10. -/
theorem test_pushpcp1_wrap :
    seen (fun s => (s.mem, s.sp, s.pc, s.cyc)) (exec .pushpcp1 { loaded [(0x01FF, 0x99), (0x01FE, 0x99)] with pc := 0xFFFF }) =
      some (.none, [], 0xFD, 0xFFFF, 8) := by
  decide

/-- K8. -/
theorem test_pushpc :
    seen (fun s => (s.mem, s.sp, s.pc, s.cyc)) (exec .pushpc (fresh 10)) =
      some (.none, [(0x01FE, 0xFC), (0x01FF, 0xFF)], 0xFD, 0xFFFC, 8) := by
  decide

/-- K11. -/
theorem test_pushb :
    seen (fun s => (s.mem, s.sp, s.pc, s.cyc)) (exec (.pushb 0x5A) (fresh 10)) = some (.none, [(0x01FF, 0x5A)], 0xFE, 0xFFFC, 8) := by
  decide

/-- K12. -/
theorem test_pushb_wrap :
    seen (fun s => (s.mem, s.sp, s.pc, s.cyc)) (exec (.pushb 0xFF) { fresh 1 with sp := 0x00 }) =
      some (.none, [(0x0100, 0xFF)], 0xFF, 0xFFFC, -1) := by
  decide

/-- K13. -/
theorem test_popb :
    seen (fun s => (s.sp, s.cyc)) (exec .popb { loaded [(0x01FF, 0x5A)] with sp := 0xFE, cyc := 8 }) = some (.byte 0x5A, 0xFF, 6) := by
  decide

/-- K14: from 0x0100, not 0x0200. -/
theorem test_popb_wrap :
    seen (fun s => (s.sp, s.cyc)) (exec .popb { loaded [(0x0100, 0x77), (0x0200, 0x88)] with sp := 0xFF, cyc := 8 }) =
      some (.byte 0x77, 0x00, 6) := by
  decide

/-- K16: the high byte is outside the stack page. -/
theorem test_popw :
    seen (fun s => (s.sp, s.cyc)) (exec .popw { loaded [(0x01FF, 0x78), (0x0200, 0xEE), (0x0100, 0x56)] with sp := 0xFE, cyc := 8 }) =
      some (.word 0xEE78, 0x00, 6) := by
  decide

/-- K17. -/
theorem test_popw_outside :
    seen (fun s => (s.sp, s.cyc)) (exec .popw { loaded [(0x0200, 0xEE), (0x0201, 0xDD), (0x0100, 0x34)] with sp := 0xFF, cyc := 8 }) =
      some (.word 0xDDEE, 0x01, 6) := by
  decide

/-! ### Steps -/

/-- B4: the caller sets the budget to 1000 between two transactions. -/
theorem test_step_with_budget :
    (nextOf (step { fresh 5 with pending := [⟨0x4000000000000000, some 1000⟩] })).map (fun s => (s.cyc, s.pending)) =
      some (999, []) := by
  decide

/-- The first step from power-on runs the word that was placed. -/
theorem test_withFetchWord :
    (nextOf (step (State.reset.withFetchWord 64 0x220400000000FFFF))).map State.pc = some 0xFFFF ∧
    (nextOf (step (State.reset.withFetchWord 64 0x5100000000001234))).map State.mem =
      some [(0x01FE, 0x34), (0x01FF, 0x12)] := by
  exact ⟨rfl, rfl⟩

/-- X1 at the machine: the all-zero word is reserved, and there is no step for it. -/
theorem test_step_reserved : step ((fresh 0).issue 0) = .refused (.reservedCommand .unassignedOp) := rfl

theorem test_step_no_command : step (fresh 0) = .refused .noCommand := rfl
/-! ### Witnesses: for every statement with hypotheses, values that meet them all together -/

/-- A state with bytes at both ends of memory, in the stack page and just above it. -/
def busy : State :=
  { loaded [(0x0000, 0x11), (0x0101, 0x44), (0x0200, 0xEE), (0x0201, 0xDD), (0xFFFF, 0x22)] with
    a := 0x42, sp := 0x80, pc := 0x1234, cyc := -3 }

/-- The invariant holds there: the one hypothesis of `WrbWritesOneCell`, `WrwWritesTwoCells`, `WrwThenReadsReturnItsBytes`,
`PushwPushesHighByteFirst`, `PushPcVariantsPushNeighbours`, `PushpcPushesPc`, `PushbWritesThenDecrements` and
`ByteRoundTripAlwaysWorks`. -/
theorem witness_invariant : busy.Inv := rfl

/-- Both ends of the two clauses of `MwrWritesOneCellOrNothing` and `BoundedAccessOfTheArray`. -/
theorem witness_mwr :
    busy.Inv ∧ (0x0000FFFF : Addr32).toNat < 65536 ∧ 65536 ≤ (0x00010000 : Addr32).toNat ∧
    ∃ b, b ≠ (0x0000FFFF : Addr32).toNat ∧ busy.mem.cell b = 0x11 := by
  exact ⟨rfl, by decide, by decide, 0, by decide, by decide⟩

/-- `EqualCellsMakeEqualMemories`: two lists built in different orders. -/
theorem witness_equalCells :
    Memory.wf (cells [(3, 0x11), (1, 0x22)]) = true ∧ Memory.wf (cells [(1, 0x22), (3, 0x11)]) = true ∧
    ∀ n, n < 65536 → (cells [(3, 0x11), (1, 0x22)]).cell n = (cells [(1, 0x22), (3, 0x11)]).cell n :=
  ⟨rfl, rfl, fun _ _ => rfl⟩

/-- `ResetWritesAllButUnused`, last clause: two states that differ in everything `RESET` writes. -/
theorem witness_reset : ∃ s s' : State, s ≠ s' ∧ s'.p.u = s.p.u ∧ s'.cyc = s.cyc ∧ s'.pending = s.pending :=
  ⟨busy, { fresh (-3) with p := Flags.fromByte 0xDF }, by decide, rfl, rfl, rfl⟩

/-- The selector clauses of `RdregReturnsTheRegister`, `WrregWritesTheRegisterOnly`, `RdflgReturnsTheFlag` and
`WrflgWritesTheFlagOnly`, at the first selector out of range. -/
theorem witness_selectors :
    (∃ f : Fields, f.op = 0x21 ∧ 6 ≤ f.sel.toNat) ∧ (∃ f : Fields, f.op = 0x22 ∧ 6 ≤ f.sel.toNat) ∧
    (∃ f : Fields, f.op = 0x23 ∧ 8 ≤ f.sel.toNat) ∧ ∃ f : Fields, f.op = 0x24 ∧ 8 ≤ f.sel.toNat :=
  ⟨⟨⟨0x21, 6, 0, 0⟩, by decide⟩, ⟨⟨0x22, 6, 0, 0⟩, by decide⟩, ⟨⟨0x23, 8, 0, 0⟩, by decide⟩, ⟨0x24, 8, 0, 0⟩, by decide⟩

/-- `StoreIsSeenByTheNextFetch`: `PC` at the cell a push writes. -/
theorem witness_fetchAfterPush : ∃ s : State, s.Inv ∧ s.pc.toNat = 256 + s.sp.toNat :=
  ⟨{ busy with pc := 0x0180 }, rfl, rfl⟩

/-- `WordRoundTripNeedsSpAtLeastTwo`: its three cases, the first at its lowest value. -/
theorem witness_wordRoundTrip :
    ∃ s₂ s₁ s₀ : State, (s₂.Inv ∧ 2 ≤ s₂.sp.toNat ∧ s₂.sp = 0x02) ∧ (s₁.Inv ∧ s₁.sp.toNat = 1) ∧ s₀.Inv ∧ s₀.sp.toNat = 0 :=
  ⟨{ busy with sp := 2 }, { busy with sp := 1 }, { busy with sp := 0 }, ⟨rfl, by decide, rfl⟩, ⟨rfl, rfl⟩, rfl, rfl⟩

/-- `MixedByteAndWordStackUse`: the lowest `SP` of (a), the highest of (c) and the first beyond it. -/
theorem witness_mixed :
    (∃ s : State, s.Inv ∧ 2 ≤ s.sp.toNat ∧ s.sp = 0x02) ∧ (∃ s : State, s.sp.toNat ≤ 0xFD ∧ s.sp = 0xFD) ∧
    ∃ sp : Byte, 0xFD < sp.toNat ∧ sp = 0xFE :=
  ⟨⟨{ busy with sp := 2 }, rfl, by decide, rfl⟩, ⟨{ busy with sp := 0xFD }, by decide, rfl⟩, 0xFE, by decide, rfl⟩

/-- `FullPageOfPushesWrapsOnce`, and both ends of its last clause. -/
theorem witness_fullPage :
    busy.Inv ∧ (List.replicate 256 (0x5A : Byte)).length = 256 ∧ (255 < 256 ∨ 512 ≤ 255) ∧ (512 < 256 ∨ 512 ≤ 512) :=
  ⟨rfl, List.length_replicate, by decide, by decide⟩

/-- `OperationsWriteOnlyTheirRow`: a place a word push does not write and a cell it does not store to, beside those it does. -/
theorem witness_frame :
    busy.Inv ∧ (Instr.pushw 0x1234).writes .PC = false ∧ (Instr.pushw 0x1234).writes .SP = true ∧
    (Instr.pushw 0x1234).storesTo busy 0x0181 = false ∧ (Instr.pushw 0x1234).storesTo busy 0x0180 = true ∧
    (Instr.pushw 0x1234).storesTo busy 0x017F = true := by
  exact ⟨rfl, by decide, by decide, by decide, by decide, by decide⟩

/-- `OperationsReadOnlyTheirRow`: two states that agree in what `FETCHW` reads and in nothing else. -/
theorem witness_reads :
    ∃ s s' : State, s.Inv ∧ s'.Inv ∧ s ≠ s' ∧ s.mem ≠ s'.mem ∧
      (∀ pl : Place, Instr.fetchw.reads pl = true → pl.same s s') ∧
      ∀ n, Instr.fetchw.loadsFrom s n = true → s'.mem.cell n = s.mem.cell n := by
  refine ⟨{ busy with pc := 0x0200 }, { loaded [(0x0200, 0xEE), (0x0201, 0xDD), (7, 7)] with pc := 0x0200 },
    rfl, rfl, by decide, by decide, ?_, ?_⟩
  · intro pl h
    simp only [Instr.reads, beq_iff_eq] at h
    subst h
    rfl
  · intro n h
    simp only [Instr.loadsFrom, nextAddress, Bool.or_eq_true, beq_iff_eq] at h
    rcases h with h | h <;> subst h <;> decide

/-- `FlagsAndGeneralRegistersAreInert`: it says something of every operation outside family 41. -/
theorem witness_inert : Instr.popw.accessesRegisters = false ∧ (Instr.mrd 0).accessesRegisters = false := by decide

/-- `UnusedFlagKeepsItsValue`: a sequence with `RESET` and another flag's write. -/
theorem witness_unused :
    ∀ i ∈ [Instr.reset, .wrflgC true, .wrregA 0x20], (∀ b, i ≠ .wrflgU b) ∧ ∀ v, i ≠ .wrregP v := by
  simp

/-- `EveryStepKeepsMemoryCanonical`: a step that stores, from a state that is not the power-on state. -/
theorem witness_step : ∃ s t : State, s.Inv ∧ step s = .next t ∧ t.mem ≠ s.mem :=
  ⟨busy.issue 0x1200000012340056, _, rfl, rfl, by decide⟩

/-- `EncodeOfDecodeIsTheWord` and `StepRunsTheDecodedOperation`. -/
theorem witness_decodes :
    decode 0x1200000012340056 = .ok (.mwr 0x00001234 0x56) ∧
    decode (BitVec.ofNat 64 0x1200000012340056) = .ok (.mwr 0x00001234 0x56) ∧
    (busy.issue 0x1200000012340056).pending = ⟨0x1200000012340056, none⟩ :: [] :=
  ⟨rfl, rfl, rfl⟩

/-- `DecoderAgreesWithTheOpcodeRows` and `AtMostOneRowSpellsAWord`: a row, a word it spells and one it does not. -/
theorem witness_rows :
    ∃ r ∈ opcodeRows, r.spells 0x42000000010000AB = true ∧ r.spells 0x42000000010001AB = false :=
  ⟨⟨"WRB", 0x42, 0, .AB⟩, by decide, by decide, by decide⟩

/-- `ReservedWordsAreRefused`. -/
theorem witness_reserved :
    (busy.issue 0x1300000000000000).pending = ⟨0x1300000000000000, none⟩ :: [] ∧ accepted 0x1300000000000000 = false := by
  exact ⟨rfl, by decide⟩

/-- `AssemblerAcceptsExactlyTheWellFormed`: each clause's commands. -/
theorem witness_assembler :
    (∃ c : Source, c.shapeOk = false) ∧ (∃ c : Source, c.shapeOk = true ∧ c.widthsOk = false) ∧
    ∃ c : Source, c.wellFormed = true :=
  ⟨⟨⟨.MRD, []⟩, by decide⟩, ⟨⟨.WRB, [.num 0x1AB, .num 0x0100]⟩, by decide⟩, ⟨.PUSHB, [.num 0xFF]⟩, by decide⟩

/-- `NoStepWithoutACommand`. -/
theorem witness_noCommand : busy.pending = [] := rfl

end Sys2Proof.Tests
end

section
/-! What `step` does, an equation per case: no command, a reserved one, an accepted one (R4, R40, R50). -/

namespace Sys2Proof.Machine
variable {s : State} {r : Request} {rest : List Request}

@[simp] theorem step_of_pending_nil (hq : s.pending = []) : step s = .refused .noCommand := by
  simp only [step, hq]

theorem step_of_decode_error {why : Reserved} (hq : s.pending = r :: rest) (hd : decode r.cmd = .error why) :
    step s = .refused (.reservedCommand why) := by
  simp only [step, hq, hd]

theorem step_of_decode_ok {i : Instr} (hq : s.pending = r :: rest) (hd : decode r.cmd = .ok i) :
    step s = exec i (s.take r rest) := by
  simp only [step, hq, hd]

end Sys2Proof.Machine
end

section
namespace Sys2Proof.Proofs
open Sys2Proof.Machine

/-- Settles O56: with an empty queue `step` takes its first case (R4, log 14). -/
theorem noStepWithoutACommand : Obligations.NoStepWithoutACommand :=
  fun _ hq => step_of_pending_nil hq

end Sys2Proof.Proofs
end

section
/-! What one operation does, said once and field by field: the state after it, each field from its own short table, and
`exec` is that state for every operation (40 to 44 of the spec, R164 for the charge). The tables are the registers,
flags and cells of R21 and R44 with the values written; every rule over all operations is a fact about one table. -/

namespace Sys2Proof
open Sys2Proof.Machine

/-- The little-endian word whose low byte is at an address (R34, R37). -/
def Machine.Memory.wordAt (m : Memory) (a : Addr16) : Word :=
  makeWord (m.cell (nextAddress a).toNat) (m.cell a.toNat)

/-- `A` after the operation. -/
def Instr.nextA (i : Instr) (s : State) : Byte :=
  match i with
  | .reset => 0x00
  | .wrregA v => v
  | _ => s.a

/-- `X` after the operation. -/
def Instr.nextX (i : Instr) (s : State) : Byte :=
  match i with
  | .reset => 0x00
  | .wrregX v => v
  | _ => s.x

/-- `Y` after the operation. -/
def Instr.nextY (i : Instr) (s : State) : Byte :=
  match i with
  | .reset => 0x00
  | .wrregY v => v
  | _ => s.y

/-- `PC` after the operation. -/
def Instr.nextPc (i : Instr) (s : State) : Word :=
  match i with
  | .reset => Config.resetPc
  | .wrregPC v => v
  | .fetchb | .fetchsb => s.pc + 1
  | .fetchw => s.pc + 2
  | _ => s.pc

/-- `SP` after the operation. -/
def Instr.nextSp (i : Instr) (s : State) : Byte :=
  match i with
  | .reset => Config.resetSp
  | .wrregSP v => v
  | .pushb _ => s.sp - 1
  | .pushw _ | .pushpc | .pushpcm1 | .pushpcp1 => s.sp - 2
  | .popb => s.sp + 1
  | .popw => s.sp + 2
  | _ => s.sp

/-- The status word after the operation. -/
def Instr.nextFlags (i : Instr) (s : State) : Flags :=
  match i with
  | .reset => s.p.cleared
  | .wrregP v => Flags.fromByte v
  | .wrflgC b => s.p.set .C b
  | .wrflgZ b => s.p.set .Z b
  | .wrflgI b => s.p.set .I b
  | .wrflgD b => s.p.set .D b
  | .wrflgB b => s.p.set .B b
  | .wrflgU b => s.p.set .U b
  | .wrflgV b => s.p.set .V b
  | .wrflgN b => s.p.set .N b
  | _ => s.p

/-- The memory after the operation. -/
def Instr.nextMem (i : Instr) (s : State) : Memory :=
  match i with
  | .minit | .reset => Memory.initialised
  | .mwr a v => memWrite s.mem a v
  | .wrb v a => (busWrite a v s).mem
  | .wrw v a => (busWriteWord a v s).mem
  | .pushb v => (pushByte v s).mem
  | .pushw v => (pushWord v s).mem
  | .pushpc => (pushWord s.pc s).mem
  | .pushpcm1 => (pushWord (s.pc - 1) s).mem
  | .pushpcp1 => (pushWord (s.pc + 1) s).mem
  | _ => s.mem

/-- What the operation returns (R57). -/
def Instr.result (i : Instr) (s : State) : Response :=
  match i with
  | .mrd a => .byte (memRead s.mem a)
  | .rdregA => .byte s.a
  | .rdregX => .byte s.x
  | .rdregY => .byte s.y
  | .rdregSP => .byte s.sp
  | .rdregPC => .word s.pc
  | .rdregP => .byte s.p.toByte
  | .rdflgC => .bit (s.p.get .C)
  | .rdflgZ => .bit (s.p.get .Z)
  | .rdflgI => .bit (s.p.get .I)
  | .rdflgD => .bit (s.p.get .D)
  | .rdflgB => .bit (s.p.get .B)
  | .rdflgU => .bit (s.p.get .U)
  | .rdflgV => .bit (s.p.get .V)
  | .rdflgN => .bit (s.p.get .N)
  | .fetchb => .byte (s.mem.cell s.pc.toNat)
  | .fetchsb => .signedByte (s.mem.cell s.pc.toNat)
  | .fetchw => .word (s.mem.wordAt s.pc)
  | .rdb a => .byte (s.mem.cell a.toNat)
  | .rdw a => .word (s.mem.wordAt a)
  | .stkaddr => .word (stackAddress s.sp)
  | .popb => .byte (s.mem.cell (stackAddress (s.sp + 1)).toNat)
  | .popw => .word (s.mem.wordAt (popWordAddress s.sp))
  | _ => .none

/-- The state after the operation. -/
def Instr.nextState (i : Instr) (s : State) : State where
  a := i.nextA s
  x := i.nextX s
  y := i.nextY s
  pc := i.nextPc s
  sp := i.nextSp s
  p := i.nextFlags s
  mem := i.nextMem s
  cyc := s.cyc - i.cost
  response := i.result s
  pending := s.pending

namespace Machine

theorem busReadWord_eq_wordAt (a : Addr16) (s : State) : busReadWord a s = (s.mem.wordAt a, s.charge 2) := by
  rw [busReadWord_eq, Memory.wordAt, nextAddress_toNat]

/-- Every operation completes, in the state its tables give: the charged accesses by the lemma of the access each makes,
the uncharged operations by their definitions. -/
theorem exec_eq_nextState (i : Instr) (s : State) : exec i s = .next (i.nextState s) := by
  cases i with
  | fetchb => simp only [exec, execFetchb, fetchByte_eq]; rfl
  | fetchsb => simp only [exec, execFetchsb, fetchByte_eq]; rfl
  | fetchw => simp only [exec, execFetchw, fetchWord, busReadWord_eq_wordAt]; rfl
  | rdb => simp only [exec, execRdb, busRead_eq]; rfl
  | rdw => simp only [exec, execRdw, busReadWord_eq_wordAt]; rfl
  | wrb => rfl
  | wrw => simp only [exec, execWrw, busWriteWord_eq]; rfl
  | pushw => simp only [exec, execPushw, pushWord_eq]; rfl
  | pushpcm1 => simp only [exec, execPushpcm1, pushWord_eq]; rfl
  | pushpcp1 => simp only [exec, execPushpcp1, pushWord_eq]; rfl
  | pushpc => simp only [exec, execPushpc, pushWord_eq]; rfl
  | pushb => simp only [exec, execPushb, pushByte_eq]; rfl
  | popb => simp only [exec, execPopb, popByte_eq, ← stackAddress_toNat]; rfl
  | popw => simp only [exec, execPopw, popWord, busReadWord_eq_wordAt]; rfl
  | _ => simp only [Instr.nextState, Instr.cost, Int.sub_zero]; rfl

end Machine
end Sys2Proof
end

section
/-! The frame and the dependence of each table: what an operation does not write it leaves (R21, R44), and what it
writes and returns depends only on what it reads. -/

namespace Sys2Proof
open Sys2Proof.Machine
variable {i : Instr} {s s' : State}

theorem Machine.Flags.get_cleared (p : Flags) (f : Flag) : p.cleared.get f = if f = .U then p.u else false := by
  cases f <;> rfl

/-! ### The registers and flags an operation does not write -/

theorem Instr.nextA_of_not_writes (h : i.writes .A = false) : i.nextA s = s.a := by
  cases i with
  | reset | wrregA => cases h
  | _ => rfl

theorem Instr.nextX_of_not_writes (h : i.writes .X = false) : i.nextX s = s.x := by
  cases i with
  | reset | wrregX => cases h
  | _ => rfl

theorem Instr.nextY_of_not_writes (h : i.writes .Y = false) : i.nextY s = s.y := by
  cases i with
  | reset | wrregY => cases h
  | _ => rfl

theorem Instr.nextPc_of_not_writes (h : i.writes .PC = false) : i.nextPc s = s.pc := by
  cases i with
  | reset | wrregPC | fetchb | fetchsb | fetchw => cases h
  | _ => rfl

theorem Instr.nextSp_of_not_writes (h : i.writes .SP = false) : i.nextSp s = s.sp := by
  cases i with
  | reset | wrregSP | pushb | pushw | pushpc | pushpcm1 | pushpcp1 | popb | popw => cases h
  | _ => rfl

theorem Instr.get_nextFlags_of_not_writes {f : Flag} (h : i.writes (.flag f) = false) :
    (i.nextFlags s).get f = s.p.get f := by
  cases i with
  | reset =>
    have hf : f = .U := by simpa [Instr.writes] using h
    subst hf
    rfl
  | wrregP => cases h
  | wrflgC | wrflgZ | wrflgI | wrflgD | wrflgB | wrflgU | wrflgV | wrflgN =>
    exact Flags.get_set_other _ _ (by simpa [Instr.writes] using h)
  | _ => rfl

/-- The frame of every operation on the registers and flags (R21). -/
theorem Instr.same_of_not_writes {pl : Place} (h : i.writes pl = false) : pl.same s (i.nextState s) := by
  cases pl with
  | A => exact nextA_of_not_writes h
  | X => exact nextX_of_not_writes h
  | Y => exact nextY_of_not_writes h
  | PC => exact nextPc_of_not_writes h
  | SP => exact nextSp_of_not_writes h
  | flag f => exact get_nextFlags_of_not_writes h

/-- Only `WRFLG U` and `WRREG P` have `U` in their row (R17). -/
theorem Instr.not_writes_unused (hf : ∀ b, i ≠ .wrflgU b) (hp : ∀ v, i ≠ .wrregP v) : i.writes (.flag .U) = false := by
  cases i with
  | wrflgU b => exact absurd rfl (hf b)
  | wrregP v => exact absurd rfl (hp v)
  | _ => rfl

/-- The general registers and the flags: what family 41 alone reads or writes (R11, R14). -/
def Machine.Place.isInert : Place → Bool
  | .A | .X | .Y | .flag _ => true
  | .PC | .SP => false

/-- The rows of R21 outside family 41 hold no general register and no flag, to write or to read. -/
theorem Instr.inert_of_not_accessesRegisters (h : i.accessesRegisters = false) {pl : Place} (hpl : pl.isInert = true) :
    i.writes pl = false ∧ i.reads pl = false := by
  cases i with
  | minit | mrd | mwr | fetchb | fetchsb | fetchw | rdb | rdw | wrb | wrw
  | stkaddr | pushw | pushpc | pushpcm1 | pushpcp1 | pushb | popb | popw =>
    cases pl with
    | PC | SP => cases hpl
    | _ => exact ⟨rfl, rfl⟩
  | _ => cases h

/-! ### The registers and flags an operation writes -/

section
variable (hr : ∀ pl : Place, i.reads pl = true → pl.same s s')
include hr

theorem Instr.nextPc_congr (h : i.writes .PC = true) : i.nextPc s' = i.nextPc s := by
  cases i with
  | reset | wrregPC => rfl
  | fetchb | fetchsb => exact congrArg (· + 1) (hr .PC rfl)
  | fetchw => exact congrArg (· + 2) (hr .PC rfl)
  | _ => cases h

theorem Instr.nextSp_congr (h : i.writes .SP = true) : i.nextSp s' = i.nextSp s := by
  cases i with
  | reset | wrregSP => rfl
  | pushb => exact congrArg (· - 1) (hr .SP rfl)
  | pushw | pushpc | pushpcm1 | pushpcp1 => exact congrArg (· - 2) (hr .SP rfl)
  | popb => exact congrArg (· + 1) (hr .SP rfl)
  | popw => exact congrArg (· + 2) (hr .SP rfl)
  | _ => cases h

end

theorem Instr.nextA_congr (h : i.writes .A = true) : i.nextA s' = i.nextA s := by
  cases i with
  | reset | wrregA => rfl
  | _ => cases h

theorem Instr.nextX_congr (h : i.writes .X = true) : i.nextX s' = i.nextX s := by
  cases i with
  | reset | wrregX => rfl
  | _ => cases h

theorem Instr.nextY_congr (h : i.writes .Y = true) : i.nextY s' = i.nextY s := by
  cases i with
  | reset | wrregY => rfl
  | _ => cases h

/-- `WRFLG` and `WRREG P` write bits of their operands, and `RESET` writes zeros to all but `U`. -/
theorem Instr.get_nextFlags_congr {f : Flag} (h : i.writes (.flag f) = true) :
    (i.nextFlags s').get f = (i.nextFlags s).get f := by
  cases i with
  | reset =>
    have hf : f ≠ .U := by simpa [Instr.writes] using h
    have hc (p : Flags) : p.cleared.get f = false := (Flags.get_cleared p f).trans (if_neg hf)
    exact (hc s'.p).trans (hc s.p).symm
  | wrregP => rfl
  | wrflgC | wrflgZ | wrflgI | wrflgD | wrflgB | wrflgU | wrflgV | wrflgN =>
    have hf := eq_of_beq h
    cases hf
    rfl
  | _ => cases h

/-- What an operation writes to the registers and flags depends on those it reads (R21). -/
theorem Instr.same_of_writes (hr : ∀ pl : Place, i.reads pl = true → pl.same s s') {pl : Place}
    (h : i.writes pl = true) : pl.same (i.nextState s) (i.nextState s') := by
  cases pl with
  | A => exact nextA_congr h
  | X => exact nextX_congr h
  | Y => exact nextY_congr h
  | PC => exact nextPc_congr hr h
  | SP => exact nextSp_congr hr h
  | flag f => exact get_nextFlags_congr h

/-! ### The response -/

namespace Machine
variable {m m' : Memory}

theorem Memory.cell_congr {k k' : Nat} (hk : k' = k) (h : ∀ n, (n == k) = true → m'.cell n = m.cell n) :
    m'.cell k' = m.cell k := by
  rw [hk, h k BEq.rfl]

theorem Memory.wordAt_congr {a a' : Addr16} (ha : a' = a)
    (h : ∀ n, (n == a.toNat || n == (nextAddress a).toNat) = true → m'.cell n = m.cell n) :
    m'.wordAt a' = m.wordAt a := by
  rw [ha, Memory.wordAt, Memory.wordAt, h a.toNat (by simp), h (nextAddress a).toNat (by simp)]

theorem memRead_congr {a : Addr32} (h : ∀ n, (n == a.toNat) = true → m'.cell n = m.cell n) :
    memRead m' a = memRead m a := by
  rw [memRead, memRead, Memory.cell_congr rfl h]

end Machine

/-- What an operation returns depends on the registers, flags and cells it reads (R21, R44). -/
theorem Instr.result_congr (hr : ∀ pl : Place, i.reads pl = true → pl.same s s')
    (hm : ∀ n, i.loadsFrom s n = true → s'.mem.cell n = s.mem.cell n) : i.result s' = i.result s := by
  cases i with
  | mrd => exact congrArg Response.byte (memRead_congr hm)
  | rdregA => exact congrArg Response.byte (hr .A rfl)
  | rdregX => exact congrArg Response.byte (hr .X rfl)
  | rdregY => exact congrArg Response.byte (hr .Y rfl)
  | rdregSP => exact congrArg Response.byte (hr .SP rfl)
  | rdregPC => exact congrArg Response.word (hr .PC rfl)
  | rdregP => exact congrArg (fun p => Response.byte p.toByte) (Flags.ext_get fun f => hr (.flag f) rfl)
  | rdflgC | rdflgZ | rdflgI | rdflgD | rdflgB | rdflgU | rdflgV | rdflgN =>
    exact congrArg Response.bit (hr (.flag _) rfl)
  | fetchb => exact congrArg Response.byte (Memory.cell_congr (congrArg _ (hr .PC rfl)) hm)
  | fetchsb => exact congrArg Response.signedByte (Memory.cell_congr (congrArg _ (hr .PC rfl)) hm)
  | fetchw => exact congrArg Response.word (Memory.wordAt_congr (hr .PC rfl) hm)
  | rdb => exact congrArg Response.byte (Memory.cell_congr rfl hm)
  | rdw => exact congrArg Response.word (Memory.wordAt_congr rfl hm)
  | stkaddr => exact congrArg (fun sp => Response.word (stackAddress sp)) (hr .SP rfl)
  | popb =>
    have ha : stackAddress (s'.sp + 1) = stackAddress (s.sp + 1) := congrArg (fun sp => stackAddress (sp + 1)) (hr .SP rfl)
    exact congrArg Response.byte (Memory.cell_congr (congrArg _ ha) hm)
  | popw => exact congrArg Response.word (Memory.wordAt_congr (congrArg popWordAddress (hr .SP rfl)) hm)
  | _ => rfl

/-! ### Other general registers and flags -/

theorem Machine.Place.same_withRegisters {pl : Place} (hpl : pl.isInert = false) (a x y : Byte) (p : Flags) :
    pl.same s (s.withRegisters a x y p) := by
  cases pl with
  | PC | SP => rfl
  | _ => cases hpl

/-- An operation outside family 41 does the same whatever the general registers and the flags hold (R11, R14). -/
theorem Instr.nextState_withRegisters (h : i.accessesRegisters = false) (a x y : Byte) (p : Flags) :
    i.nextState (s.withRegisters a x y p) = (i.nextState s).withRegisters a x y p := by
  have hw {pl : Place} (hpl : pl.isInert = true) := (inert_of_not_accessesRegisters h hpl).1
  have ha : i.nextA (s.withRegisters a x y p) = a := nextA_of_not_writes (hw rfl)
  have hx : i.nextX (s.withRegisters a x y p) = x := nextX_of_not_writes (hw rfl)
  have hy : i.nextY (s.withRegisters a x y p) = y := nextY_of_not_writes (hw rfl)
  have hp : i.nextFlags (s.withRegisters a x y p) = p :=
    Flags.ext_get fun _ => get_nextFlags_of_not_writes (hw rfl)
  have hres : i.result (s.withRegisters a x y p) = i.result s := by
    refine result_congr (fun pl hpl => Place.same_withRegisters ?_ a x y p) fun _ _ => rfl
    cases hin : pl.isInert with
    | false => rfl
    | true => exact hpl.symm.trans (inert_of_not_accessesRegisters h hin).2
  simp only [nextState, ha, hx, hy, hp, hres]
  rfl

end Sys2Proof
end

section
/-! The cells an operation stores to, and what it stores there (R44, R45, R46). -/

namespace Sys2Proof
open Sys2Proof.Machine

/-- The byte a word write of `v` at the address `a` leaves at cell `n`, one of its two (R103). -/
def Machine.writtenAt (a : Addr16) (v : Word) (n : Nat) : Byte :=
  if n = a.toNat then loByte v else hiByte v

/-- The byte a word push of `v` at the pointer `sp` leaves at cell `n`, one of its two (R111). -/
def Machine.pushedAt (sp : Byte) (v : Word) (n : Nat) : Byte :=
  if n = (stackAddress (sp - 1)).toNat then loByte v else hiByte v

/-- The byte the operation leaves at cell `n`, where it stores there. -/
def Instr.storedAt (i : Instr) (s : State) (n : Nat) : Byte :=
  match i with
  | .mwr _ v | .wrb v _ | .pushb v => v
  | .wrw v a => writtenAt a v n
  | .pushw v => pushedAt s.sp v n
  | .pushpc => pushedAt s.sp s.pc n
  | .pushpcm1 => pushedAt s.sp (s.pc - 1) n
  | .pushpcp1 => pushedAt s.sp (s.pc + 1) n
  | _ => Config.clearedCell

section
variable {i : Instr} {s : State} {n : Nat} (hs : s.Inv)
include hs

theorem Machine.cell_busWriteWord_of_stored {a : Addr16} (v : Word)
    (h : (n == a.toNat || n == (nextAddress a).toNat) = true) :
    (busWriteWord a v s).mem.cell n = writtenAt a v n := by
  have h' : n ≠ a.toNat → n = (nextAddress a).toNat := by simpa [or_iff_not_imp_left] using h
  rw [cell_busWriteWord hs, writtenAt, ← nextAddress_toNat]
  split
  · rfl
  · next hlo => rw [if_pos (h' hlo)]

theorem Machine.cell_busWriteWord_of_not_stored {a : Addr16} (v : Word)
    (h : (n == a.toNat || n == (nextAddress a).toNat) = false) :
    (busWriteWord a v s).mem.cell n = s.mem.cell n := by
  obtain ⟨hlo, hhi⟩ : n ≠ a.toNat ∧ n ≠ (nextAddress a).toNat := by simpa [-nextAddress_toNat] using h
  rw [cell_busWriteWord hs, ← nextAddress_toNat, if_neg hlo, if_neg hhi]

theorem Machine.cell_pushWord_of_stored (v : Word)
    (h : (n == (stackAddress s.sp).toNat || n == (stackAddress (s.sp - 1)).toNat) = true) :
    (pushWord v s).mem.cell n = pushedAt s.sp v n := by
  have h' : n ≠ (stackAddress (s.sp - 1)).toNat → n = (stackAddress s.sp).toNat := by
    simpa [or_iff_not_imp_right] using h
  rw [cell_pushWord hs, pushedAt, ← stackAddress_toNat, ← stackAddress_toNat]
  split
  · rfl
  · next hlo => rw [if_pos (h' hlo)]

theorem Machine.cell_pushWord_of_not_stored (v : Word)
    (h : (n == (stackAddress s.sp).toNat || n == (stackAddress (s.sp - 1)).toNat) = false) :
    (pushWord v s).mem.cell n = s.mem.cell n := by
  obtain ⟨hhi, hlo⟩ : n ≠ (stackAddress s.sp).toNat ∧ n ≠ (stackAddress (s.sp - 1)).toNat := by simpa using h
  rw [cell_pushWord hs, ← stackAddress_toNat, ← stackAddress_toNat, if_neg hlo, if_neg hhi]

/-- The frame of every operation on the cells (R44, R46). -/
theorem Instr.cell_nextMem_of_not_storesTo (h : i.storesTo s n = false) :
    (i.nextMem s).cell n = s.mem.cell n := by
  cases i with
  | minit | reset => cases h
  | mwr a v => exact (cell_memWrite hs a v n).trans (if_neg fun hn => ne_of_beq_false h hn.1)
  | wrb v a => exact (cell_memWrite_zext32 hs a v n).trans (if_neg (ne_of_beq_false h))
  | wrw => exact cell_busWriteWord_of_not_stored hs _ h
  | pushb v =>
    have hn : n ≠ 256 + s.sp.toNat := stackAddress_toNat s.sp ▸ ne_of_beq_false h
    exact (cell_pushByte hs v n).trans (if_neg hn)
  | pushw | pushpc | pushpcm1 | pushpcp1 => exact cell_pushWord_of_not_stored hs _ h
  | _ => rfl

/-- What every operation leaves at the cells of the array it stores to. -/
theorem Instr.cell_nextMem_of_storesTo (hn : n < Config.memSize) (h : i.storesTo s n = true) :
    (i.nextMem s).cell n = i.storedAt s n := by
  cases i with
  | minit | reset => rfl
  | mwr a v =>
    have ha : n = a.toNat := eq_of_beq h
    exact (cell_memWrite hs a v n).trans (if_pos ⟨ha, lt_of_eq_of_lt ha.symm hn⟩)
  | wrb v a => exact (cell_memWrite_zext32 hs a v n).trans (if_pos (eq_of_beq h))
  | wrw => exact cell_busWriteWord_of_stored hs _ h
  | pushb v =>
    have hn : n = 256 + s.sp.toNat := stackAddress_toNat s.sp ▸ eq_of_beq h
    exact (cell_pushByte hs v n).trans (if_pos hn)
  | pushw | pushpc | pushpcm1 | pushpcp1 => exact cell_pushWord_of_stored hs _ h
  | _ => cases h

/-- Every operation keeps the memory's canonical form. -/
theorem Instr.wf_nextMem : (i.nextMem s).wf = true := by
  cases i with
  | minit | reset => exact Memory.wf_initialised
  | mwr => exact wf_memWrite hs _ _
  | wrb => exact wf_busWrite hs _ _
  | wrw => exact wf_busWriteWord hs _ _
  | pushb => exact wf_pushByte hs _
  | pushw | pushpc | pushpcm1 | pushpcp1 => exact wf_pushWord hs _
  | _ => exact hs

end

section
variable {i : Instr} {s s' : State} {n : Nat} (hr : ∀ pl : Place, i.reads pl = true → pl.same s s')
include hr

/-- Where an operation stores depends on the registers it reads (R44). -/
theorem Instr.storesTo_congr : i.storesTo s' n = i.storesTo s n := by
  cases i with
  | pushb => exact congrArg (fun sp => n == (stackAddress sp).toNat) (hr .SP rfl)
  | pushw | pushpc | pushpcm1 | pushpcp1 =>
    exact congrArg (fun sp => n == (stackAddress sp).toNat || n == (stackAddress (sp - 1)).toNat) (hr .SP rfl)
  | _ => rfl

/-- What an operation stores depends on the registers it reads. -/
theorem Instr.storedAt_congr : i.storedAt s' n = i.storedAt s n := by
  cases i with
  | pushw => exact congrArg (pushedAt · _ n) (hr .SP rfl)
  | pushpc => exact congrArg₂ (pushedAt · · n) (hr .SP rfl) (hr .PC rfl)
  | pushpcm1 => exact congrArg₂ (fun sp pc => pushedAt sp (pc - 1) n) (hr .SP rfl) (hr .PC rfl)
  | pushpcp1 => exact congrArg₂ (fun sp pc => pushedAt sp (pc + 1) n) (hr .SP rfl) (hr .PC rfl)
  | _ => rfl

end

end Sys2Proof
end

section
/-! The status byte and the flags stand for each other, bit by bit (R15, D10). -/

namespace Sys2Proof.Machine

theorem exists_flagBit_eq {k : Nat} (hk : k < 8) : ∃ f, Config.flagBit f = k := by
  interval_cases k
  exacts [⟨.C, rfl⟩, ⟨.Z, rfl⟩, ⟨.I, rfl⟩, ⟨.D, rfl⟩, ⟨.B, rfl⟩, ⟨.U, rfl⟩, ⟨.V, rfl⟩, ⟨.N, rfl⟩]

@[simp] theorem Flags.toByte_fromByte (v : Byte) : (Flags.fromByte v).toByte = v := by
  refine BitVec.eq_of_getLsbD_eq fun k hk => ?_
  obtain ⟨f, rfl⟩ := exists_flagBit_eq hk
  rw [Flags.getLsbD_toByte, Flags.get_fromByte]

@[simp] theorem Flags.fromByte_toByte (p : Flags) : Flags.fromByte p.toByte = p :=
  Flags.ext_get fun f => by rw [Flags.get_fromByte, Flags.getLsbD_toByte]

end Sys2Proof.Machine
end

section
/-! What `step` can do, and what a sequence of operations keeps (R4, R165). -/

namespace Sys2Proof.Machine
variable {s t : State}

/-- A step that answers a next state ran the operation its next command word spells. -/
theorem exists_of_step_eq_next (h : step s = .next t) :
    ∃ r rest i, s.pending = r :: rest ∧ decode r.cmd = .ok i ∧ t = i.nextState (s.take r rest) := by
  cases hq : s.pending with
  | nil =>
    rw [step_of_pending_nil hq] at h
    cases h
  | cons r rest =>
    cases hd : decode r.cmd with
    | error why =>
      rw [step_of_decode_error hq hd] at h
      cases h
    | ok i =>
      rw [step_of_decode_ok hq hd, exec_eq_nextState] at h
      cases h
      exact ⟨r, rest, i, rfl, hd, rfl⟩

/-- A sequence runs its first operation, which completes, then the rest. -/
theorem execAll_cons (i : Instr) (is : List Instr) (s : State) :
    execAll (i :: is) s = execAll is (i.nextState s) := by
  simp only [execAll, exec_eq_nextState]

end Sys2Proof.Machine
end

section
/-! Memories in canonical form are determined by their cells (R18, R30). -/

namespace Sys2Proof.Machine
variable {m : Memory} {lo b : Nat} {w : Byte}

@[simp] theorem Memory.wfFrom_cons :
    Memory.wfFrom lo ((b, w) :: m) = true ↔
      lo ≤ b ∧ b < Config.memSize ∧ w ≠ Config.clearedCell ∧ m.wfFrom (b + 1) = true := by
  simp only [Memory.wfFrom, Bool.and_eq_true, decide_eq_true_eq, and_assoc]

@[simp] theorem Memory.cell_cons_same : Memory.cell ((b, w) :: m) b = w := if_pos rfl

theorem Memory.cell_cons_of_ne {n : Nat} (h : n ≠ b) : Memory.cell ((b, w) :: m) n = m.cell n := if_neg h.symm

theorem Memory.cell_head_ne {e : Host.Cell} (h : Memory.wfFrom lo (e :: m) = true) :
    Memory.cell (e :: m) e.1 ≠ Config.clearedCell := by
  obtain ⟨-, -, hw, -⟩ := Memory.wfFrom_cons.1 h
  rwa [Memory.cell_cons_same]

/-- The list is in the canonical form from its first address on. -/
theorem Memory.wfFrom_head (h : Memory.wfFrom lo ((b, w) :: m) = true) : Memory.wfFrom b ((b, w) :: m) = true := by
  obtain ⟨-, hb, hw, hm⟩ := Memory.wfFrom_cons.1 h
  exact Memory.wfFrom_cons.2 ⟨le_rfl, hb, hw, hm⟩

/-- Every cell that is not cleared lies where the list's addresses may. -/
theorem Memory.le_of_cell_ne {n : Nat} (hm : m.wfFrom lo = true) (hn : m.cell n ≠ Config.clearedCell) : lo ≤ n :=
  Nat.le_of_not_lt fun h => hn (Memory.cell_below hm h)

/-- The head of a canonical list is its lowest cell that is not cleared, so equal cells give equal heads, and, as both
tails are cleared up to there, equal tails. -/
theorem Memory.eq_of_cell_eq {m₁ : Memory} : ∀ {m₂ : Memory} {lo₁ lo₂ : Nat}, m₁.wfFrom lo₁ = true →
    m₂.wfFrom lo₂ = true → (∀ n, m₁.cell n = m₂.cell n) → m₁ = m₂ := by
  induction m₁ with
  | nil =>
    intro m₂ lo₁ lo₂ _ h₂ hc
    cases m₂ with
    | nil => rfl
    | cons e₂ r₂ => exact absurd (hc e₂.1).symm (Memory.cell_head_ne h₂)
  | cons e₁ r₁ ih =>
    intro m₂ lo₁ lo₂ h₁ h₂ hc
    cases m₂ with
    | nil => exact absurd (hc e₁.1) (Memory.cell_head_ne h₁)
    | cons e₂ r₂ =>
      obtain ⟨b₁, w₁⟩ := e₁
      obtain ⟨b₂, w₂⟩ := e₂
      have hle₁ : b₁ ≤ b₂ := Memory.le_of_cell_ne (Memory.wfFrom_head h₁) (hc b₂ ▸ Memory.cell_head_ne h₂)
      have hle₂ : b₂ ≤ b₁ := Memory.le_of_cell_ne (Memory.wfFrom_head h₂) (hc b₁ ▸ Memory.cell_head_ne h₁)
      obtain rfl : b₁ = b₂ := Nat.le_antisymm hle₁ hle₂
      obtain rfl : w₁ = w₂ := by simpa using hc b₁
      obtain ⟨-, -, -, ht₁⟩ := Memory.wfFrom_cons.1 h₁
      obtain ⟨-, -, -, ht₂⟩ := Memory.wfFrom_cons.1 h₂
      have htail (n : Nat) : Memory.cell r₁ n = Memory.cell r₂ n := by
        by_cases hn : n = b₁
        · rw [Memory.cell_below ht₁ (by omega), Memory.cell_below ht₂ (by omega)]
        · simpa [Memory.cell_cons_of_ne hn] using hc n
      rw [ih ht₁ ht₂ htail]

end Sys2Proof.Machine
end

section
namespace Sys2Proof.Proofs
open Sys2Proof.Machine

/-- Settles O46: a step runs one operation, and every operation keeps the canonical form. -/
theorem everyStepKeepsMemoryCanonical : Obligations.EveryStepKeepsMemoryCanonical := by
  intro s t hs h
  obtain ⟨r, rest, i, -, -, rfl⟩ := exists_of_step_eq_next h
  exact Instr.wf_nextMem ((State.inv_take r rest).2 hs)

/-- Settles O5: outside the array both memories are cleared, so all cells agree, and the cells determine the list. -/
theorem equalCellsMakeEqualMemories : Obligations.EqualCellsMakeEqualMemories := by
  intro m₁ m₂ h₁ h₂ hc
  refine Memory.eq_of_cell_eq h₁ h₂ fun n => ?_
  by_cases hn : n < Config.memSize
  · exact hc n hn
  · rw [Memory.cell_outside h₁ (Nat.le_of_not_lt hn), Memory.cell_outside h₂ (Nat.le_of_not_lt hn)]

/-- Settles O45: the power-on memory is the cleared one. -/
theorem powerOnMemoryIsCanonical : Obligations.PowerOnMemoryIsCanonical :=
  ⟨Memory.wf_initialised, fun _ => Memory.wf_initialised⟩

/-- Settles O39: the frame of each table. -/
theorem operationsWriteOnlyTheirRow : Obligations.OperationsWriteOnlyTheirRow := fun i s hs =>
  ⟨i.nextState s, exec_eq_nextState i s, fun _ h => Instr.same_of_not_writes h,
    fun _ h => Instr.cell_nextMem_of_not_storesTo hs h, rfl, rfl⟩

/-- Settles O40: the response and the writes are functions of what the operation reads, and where it stores in one
state it stores in the other. -/
theorem operationsReadOnlyTheirRow : Obligations.OperationsReadOnlyTheirRow := by
  intro i s s' hs hs' hr hm
  refine ⟨i.nextState s, i.nextState s', exec_eq_nextState i s, exec_eq_nextState i s', Instr.result_congr hr hm,
    fun _ h => Instr.same_of_writes hr h, fun n hn h => ?_⟩
  have h' : i.storesTo s' n = true := (Instr.storesTo_congr hr).trans h
  calc (i.nextMem s').cell n
    _ = i.storedAt s' n := Instr.cell_nextMem_of_storesTo hs' hn h'
    _ = i.storedAt s n := Instr.storedAt_congr hr
    _ = (i.nextMem s).cell n := (Instr.cell_nextMem_of_storesTo hs hn h).symm

/-- Settles O42: no table of an operation's effect looks at the last response or the queue. -/
theorem modelFieldsCarryNoHiddenState : Obligations.ModelFieldsCarryNoHiddenState := fun i s r q =>
  ⟨i.nextState s, exec_eq_nextState i s, exec_eq_nextState i { s with response := r, pending := q }⟩

/-- Settles O41: an operation outside family 41 has no general register and no flag in its row, to read or to write. -/
theorem flagsAndGeneralRegistersAreInert : Obligations.FlagsAndGeneralRegistersAreInert := by
  intro i s a x y p hi
  have hw {pl : Place} (hpl : pl.isInert = true) := (Instr.inert_of_not_accessesRegisters hi hpl).1
  refine ⟨i.nextState s, exec_eq_nextState i s, Instr.nextA_of_not_writes (hw rfl), Instr.nextX_of_not_writes (hw rfl),
    Instr.nextY_of_not_writes (hw rfl), Flags.ext_get fun _ => Instr.get_nextFlags_of_not_writes (hw rfl), ?_⟩
  rw [exec_eq_nextState, Instr.nextState_withRegisters hi]

/-- Settles O11: `Flags.fromByte` and `Flags.toByte` are inverse (D10). -/
theorem statusByteRoundTrips : Obligations.StatusByteRoundTrips := by
  refine ⟨fun s v => ?_, fun s => ?_⟩
  · exact ⟨_, rfl, congrArg Response.byte (Flags.toByte_fromByte v)⟩
  · exact ⟨_, _, _, exec_eq_nextState .rdregP s, rfl, exec_eq_nextState (.wrregP _) _, Flags.fromByte_toByte s.p⟩

/-- Settles O43: by induction on the sequence; only `WRFLG U` and `WRREG P` have `U` in their row (R17). -/
theorem unusedFlagKeepsItsValue : Obligations.UnusedFlagKeepsItsValue := by
  intro is
  induction is with
  | nil => exact fun s _ => ⟨s, rfl, rfl⟩
  | cons i is ih =>
    intro s h
    obtain ⟨hi, his⟩ := List.forall_mem_cons.1 h
    obtain ⟨t, ht, hu⟩ := ih (i.nextState s) his
    refine ⟨t, (execAll_cons i is s).trans ht, hu.trans ?_⟩
    exact Instr.get_nextFlags_of_not_writes (f := .U) (Instr.not_writes_unused hi.1 hi.2)

end Sys2Proof.Proofs
end

section
/-! The decoder gives back every operation from its command word (R52, R60), and a queue of command words runs its
first operation first (R40, R50). -/

namespace Sys2Proof
open Sys2Proof.Machine

/-- The opcode map reads every operation from its own fields: the round trips of Laws/PerInstr.lean together. -/
theorem decodeFields_fields (i : Instr) : decodeFields i.fields = .ok i := by
  cases i with
  | mrd => exact Laws.FieldsRoundTrip.mrd _
  | mwr => exact Laws.FieldsRoundTrip.mwr _ _
  | wrregA => exact Laws.FieldsRoundTrip.wrregA _
  | wrregX => exact Laws.FieldsRoundTrip.wrregX _
  | wrregY => exact Laws.FieldsRoundTrip.wrregY _
  | wrregSP => exact Laws.FieldsRoundTrip.wrregSP _
  | wrregPC => exact Laws.FieldsRoundTrip.wrregPC _
  | wrregP => exact Laws.FieldsRoundTrip.wrregP _
  | wrflgC => exact Laws.FieldsRoundTrip.wrflgC _
  | wrflgZ => exact Laws.FieldsRoundTrip.wrflgZ _
  | wrflgI => exact Laws.FieldsRoundTrip.wrflgI _
  | wrflgD => exact Laws.FieldsRoundTrip.wrflgD _
  | wrflgB => exact Laws.FieldsRoundTrip.wrflgB _
  | wrflgU => exact Laws.FieldsRoundTrip.wrflgU _
  | wrflgV => exact Laws.FieldsRoundTrip.wrflgV _
  | wrflgN => exact Laws.FieldsRoundTrip.wrflgN _
  | rdb => exact Laws.FieldsRoundTrip.rdb _
  | rdw => exact Laws.FieldsRoundTrip.rdw _
  | wrb => exact Laws.FieldsRoundTrip.wrb _ _
  | wrw => exact Laws.FieldsRoundTrip.wrw _ _
  | pushw => exact Laws.FieldsRoundTrip.pushw _
  | pushb => exact Laws.FieldsRoundTrip.pushb _
  | _ => rfl

@[simp] theorem decode_encode (i : Instr) : decode (encode i) = .ok i :=
  (decode_encode_fields i).trans (decodeFields_fields i)

namespace Machine

/-- No operation looks at the queue: it runs the same with more commands waiting. -/
theorem nextState_issueAll (i : Instr) (is : List Instr) (s : State) :
    i.nextState (s.issueAll is) = (i.nextState s).issueAll is := rfl

/-- A step on issued command words runs the first operation and leaves the others issued. -/
theorem step_issueAll_cons (i : Instr) (is : List Instr) (s : State) :
    step (s.issueAll (i :: is)) = .next ((i.nextState s).issueAll is) := by
  have hstep : step (s.issueAll (i :: is)) = exec i (s.issueAll is) :=
    step_of_decode_ok (r := ⟨encode i, none⟩) (rest := (s.issueAll is).pending) rfl (decode_encode i)
  rw [hstep, exec_eq_nextState, nextState_issueAll]

/-- A run whose first step completes goes on from where that step led. -/
theorem run_succ_of_step {k : Nat} {s t : State} (h : step s = .next t) : core.run (k + 1) s = core.run k t := by
  have hcore : core.step s = .next t := h
  simp only [Host.Core.run, hcore]

end Machine
end Sys2Proof
end

section
/-! A store to the cell `PC` points to, by whatever operation, is what the next fetch returns (R42). -/

namespace Sys2Proof.Machine

theorem response_fetchb_after_store {i : Instr} {s : State} (hs : s.Inv) (hpc : i.writes .PC = false)
    (hst : i.storesTo s s.pc.toNat = true) :
    ∃ t, execAll [i, .fetchb] s = .next t ∧ t.response = .byte (i.storedAt s s.pc.toNat) := by
  refine ⟨Instr.fetchb.nextState (i.nextState s), ?_, congrArg Response.byte ?_⟩
  · rw [execAll_cons, execAll_cons, execAll]
  · calc (i.nextMem s).cell (i.nextPc s).toNat
      _ = (i.nextMem s).cell s.pc.toNat := by rw [Instr.nextPc_of_not_writes hpc]
      _ = i.storedAt s s.pc.toNat := Instr.cell_nextMem_of_storesTo hs s.pc.isLt hst

end Sys2Proof.Machine
end

section
namespace Sys2Proof.Proofs
open Sys2Proof.Machine

/-- Settles O57: by induction on the list; each step runs the operation its word was encoded from (R40, R50, R52). -/
theorem issuedCommandsRunInOrder : Obligations.IssuedCommandsRunInOrder := by
  intro is
  induction is with
  | nil => exact fun s => ⟨s, rfl, rfl⟩
  | cons i is ih =>
    intro s
    obtain ⟨t, hops, hrun⟩ := ih (i.nextState s)
    exact ⟨t, (execAll_cons i is s).trans hops, (run_succ_of_step (step_issueAll_cons i is s)).trans hrun⟩

/-- Settles O4: `memWrite` stores at the address in range and is discarded out of range (R31, R32, R46). -/
theorem boundedAccessOfTheArray : Obligations.BoundedAccessOfTheArray := by
  intro m a v hm
  refine ⟨?_, fun ha => ⟨?_, fun b hb => ?_⟩, fun ha b => ?_⟩
  · split
    · next ha => exact memRead_inRange ha
    · next ha => exact memRead_outOfRange (Nat.le_of_not_lt ha)
  · rw [cell_memWrite hm, if_pos ⟨rfl, ha⟩]
  · rw [cell_memWrite hm, if_neg fun h => hb h.1]
  · rw [memWrite_outOfRange v ha]

/-- Settles O16: all three operations store at `PC` and leave `PC`; the controller's address of it is `zext32 PC`, and
the stack address is `PC` by hypothesis (R42, R44). -/
theorem storeIsSeenByTheNextFetch : Obligations.StoreIsSeenByTheNextFetch := by
  intro s v hs
  refine ⟨?_, ?_, fun hsp => ?_⟩
  · exact response_fetchb_after_store hs (i := .wrb v s.pc) rfl (beq_self_eq_true _)
  · exact response_fetchb_after_store hs (i := .mwr (zext32 s.pc) v) rfl (beq_iff_eq.2 (zext32_toNat s.pc).symm)
  · exact response_fetchb_after_store hs (i := .pushb v) rfl (beq_iff_eq.2 (hsp.trans (stackAddress_toNat s.sp).symm))

end Sys2Proof.Proofs
end

section
/-! The rows of the opcode map on the fields of a command word (R51, R53, R60): a row spells a word exactly where the
word has the row's `OP` and `SEL` and the row's must-be-zero bits are zero, and there the decoder reads the row's
operation. So the decoder and the separately written masks and matches agree on every word. -/

namespace Sys2Proof

/-- The fields have the row's `OP` and `SEL` (R53). -/
def Row.hasCodesOf (r : Row) (f : Fields) : Prop :=
  f.op = BitVec.ofNat 8 r.op ∧ f.sel = BitVec.ofNat 8 r.sel

/-- The must-be-zero bits of `ADDR` and `DATA` in the row's words are zero, said with the decoder's checks (R53). -/
def Row.unusedZero (r : Row) (f : Fields) : Bool :=
  if r.op = 0x24 then f.addrZero && f.dataAboveBitZero
  else match r.format with
    | .Z | .S => f.addrZero && f.dataZero
    | .M => f.dataZero
    | .MB => f.dataHighZero
    | .A => f.addrHighZero && f.dataZero
    | .AB => f.addrHighZero && f.dataHighZero
    | .AW => f.addrHighZero
    | .B | .SB => f.addrZero && f.dataHighZero
    | .W | .SW => f.addrZero

/-- The fields with nothing in `ADDR` and `DATA` but what the row's operands keep of them (R53, R54). -/
def Row.kept (r : Row) (f : Fields) : Fields :=
  if r.op = 0x24 then ⟨f.op, f.sel, 0, (BitVec.ofBool f.bit).setWidth 16⟩
  else match r.format with
    | .Z | .S => ⟨f.op, f.sel, 0, 0⟩
    | .M => ⟨f.op, f.sel, f.addr, 0⟩
    | .MB => ⟨f.op, f.sel, f.addr, f.byte.setWidth 16⟩
    | .A => ⟨f.op, f.sel, f.addr16.setWidth 32, 0⟩
    | .AB => ⟨f.op, f.sel, f.addr16.setWidth 32, f.byte.setWidth 16⟩
    | .AW => ⟨f.op, f.sel, f.addr16.setWidth 32, f.data⟩
    | .B | .SB => ⟨f.op, f.sel, 0, f.byte.setWidth 16⟩
    | .W | .SW => ⟨f.op, f.sel, 0, f.data⟩

/-- The 23 codes of R55. -/
def assignedOps : List Nat :=
  [0x10, 0x11, 0x12, 0x20, 0x21, 0x22, 0x23, 0x24, 0x30, 0x31, 0x32,
    0x40, 0x41, 0x42, 0x43, 0x50, 0x51, 0x52, 0x53, 0x54, 0x55, 0x56, 0x57]

/-- Clearing the low bits of a word leaves zero exactly when the part above them is zero. -/
theorem and_highMask_eq_zero_iff {w : Nat} (k : Nat) (x : BitVec w) :
    x &&& (BitVec.allOnes w <<< k) = 0 ↔ x.extractLsb' k (w - k) = 0 := by
  constructor <;> intro h <;> ext i hi
  · have hlt : k + i < w := by omega
    simpa [hlt] using congrArg (·.getLsbD (k + i)) h
  · by_cases hk : k ≤ i
    · have hlt : i - k < w - k := by omega
      have hbit : x[i] = false := by
        simpa [hlt, hk, BitVec.getLsbD_eq_getElem hi] using congrArg (·.getLsbD (i - k)) h
      simp [hbit]
    · simp [Nat.lt_of_not_le hk]

theorem Fields.ofCommand_inj {w w' : Command} : Fields.ofCommand w = Fields.ofCommand w' ↔ w = w' :=
  ⟨fun h => by simpa using congrArg Fields.toCommand h, congrArg _⟩

theorem Fields.ofCommand_and (w m : Command) :
    Fields.ofCommand (w &&& m) =
      ⟨(Fields.ofCommand w).op &&& (Fields.ofCommand m).op, (Fields.ofCommand w).sel &&& (Fields.ofCommand m).sel,
        (Fields.ofCommand w).addr &&& (Fields.ofCommand m).addr,
        (Fields.ofCommand w).data &&& (Fields.ofCommand m).data⟩ := by
  simp only [Fields.ofCommand, BitVec.extractLsb'_and]

section
variable (f : Fields)

theorem Fields.addrZero_iff_and_mask : f.addrZero = true ↔ f.addr &&& 0xFFFFFFFF = 0 :=
  beq_iff_eq.trans (by rw [show (0xFFFFFFFF : Addr32) = BitVec.allOnes 32 from rfl, BitVec.and_allOnes])

theorem Fields.dataZero_iff_and_mask : f.dataZero = true ↔ f.data &&& 0xFFFF = 0 :=
  beq_iff_eq.trans (by rw [show (0xFFFF : Word) = BitVec.allOnes 16 from rfl, BitVec.and_allOnes])

theorem Fields.addrHighZero_iff_and_mask : f.addrHighZero = true ↔ f.addr &&& 0xFFFF0000 = 0 :=
  beq_iff_eq.trans (and_highMask_eq_zero_iff 16 f.addr).symm

theorem Fields.dataHighZero_iff_and_mask : f.dataHighZero = true ↔ f.data &&& 0xFF00 = 0 :=
  beq_iff_eq.trans (and_highMask_eq_zero_iff 8 f.data).symm

theorem Fields.dataAboveBitZero_iff_and_mask : f.dataAboveBitZero = true ↔ f.data &&& 0xFFFE = 0 :=
  beq_iff_eq.trans (and_highMask_eq_zero_iff 1 f.data).symm

end

section
variable {r : Row} {w : Command} {f : Fields} {i : Instr}

/-- A row's mask fixes all of `OP` and `SEL`, and of `ADDR` and `DATA` the must-be-zero bits (R53). -/
theorem Row.and_mask (r : Row) (f : Fields) :
    f.op &&& (Fields.ofCommand r.mask).op = f.op ∧ f.sel &&& (Fields.ofCommand r.mask).sel = f.sel ∧
    (f.addr &&& (Fields.ofCommand r.mask).addr = 0 ∧ f.data &&& (Fields.ofCommand r.mask).data = 0 ↔
      r.unusedZero f = true) := by
  have hbyte (b : Byte) : b &&& 0xFF#8 = b := BitVec.and_allOnes
  obtain ⟨_, op, _, format⟩ := r
  by_cases h : op = 0x24
  · simp [Row.unusedZero, Row.mask, h, Fields.ofCommand, hbyte, f.addrZero_iff_and_mask,
      f.dataAboveBitZero_iff_and_mask]
  · cases format <;>
      simp [Row.unusedZero, Row.mask, h, Format.mask, Fields.ofCommand, hbyte, f.addrZero_iff_and_mask,
        f.dataZero_iff_and_mask, f.addrHighZero_iff_and_mask, f.dataHighZero_iff_and_mask]

theorem Row.ofCommand_pattern : ∀ r ∈ opcodeRows,
    Fields.ofCommand r.pattern = ⟨BitVec.ofNat 8 r.op, BitVec.ofNat 8 r.sel, 0, 0⟩ := by
  decide

theorem Row.spells_iff (hr : r ∈ opcodeRows) : r.spells w = true ↔
    r.hasCodesOf (Fields.ofCommand w) ∧ r.unusedZero (Fields.ofCommand w) = true := by
  obtain ⟨hop, hsel, hunused⟩ := r.and_mask (Fields.ofCommand w)
  rw [Row.spells, beq_iff_eq, ← Fields.ofCommand_inj, Row.ofCommand_pattern r hr, Fields.ofCommand_and, hop, hsel,
    ← hunused, Row.hasCodesOf, Fields.mk.injEq, and_assoc]

/-- With the must-be-zero bits zero the operands hold all of `ADDR` and `DATA`. -/
theorem Row.kept_eq_of_unusedZero (h : r.unusedZero f = true) : r.kept f = f := by
  obtain ⟨op, sel, addr, data⟩ := f
  obtain ⟨_, o, _, format⟩ := r
  by_cases ho : o = 0x24
  · obtain ⟨haddr, hdata⟩ : addr = 0 ∧ data.extractLsb' 1 15 = 0 := by
      simpa [Row.unusedZero, ho, Fields.addrZero, Fields.dataAboveBitZero] using h
    rw [Row.kept, if_pos ho, haddr, Fields.bit, bit_of_aboveZero hdata]
  · cases format <;>
      simp_all [Row.unusedZero, Row.kept, Fields.addrZero, Fields.addrHighZero, Fields.dataZero, Fields.dataHighZero,
        Fields.byte, Fields.addr16, byte_of_highZero, addr16_of_highZero]

theorem opcodeRows_mnemonic_inj :
    ∀ r₁ ∈ opcodeRows, ∀ r₂ ∈ opcodeRows, r₁.mnemonic = r₂.mnemonic → r₁ = r₂ := by
  decide

/-- On a row's `OP` and `SEL` the decoder checks the row's must-be-zero bits and reads the row's operands: 47 rows, each
by evaluation of the opcode map. -/
theorem decodeFields_of_row (hr : r ∈ opcodeRows) (hf : r.hasCodesOf f) :
    ∃ i : Instr, i.mnemonic = r.mnemonic ∧ i.fields = r.kept f ∧ decodeFields f = accept (r.unusedZero f) i := by
  obtain ⟨op, sel, addr, data⟩ := f
  obtain ⟨rfl, rfl⟩ := hf
  fin_cases hr <;> exact ⟨_, rfl, rfl, rfl⟩

theorem op_mem_assignedOps (hr : r ∈ opcodeRows) (hf : r.hasCodesOf f) : f.op.toNat ∈ assignedOps := by
  have hrows : ∀ r ∈ opcodeRows, (BitVec.ofNat 8 r.op).toNat ∈ assignedOps := by decide
  exact hf.1 ▸ hrows r hr

section
variable (hno : ¬ ∃ r ∈ opcodeRows, r.hasCodesOf f)
include hno

/-- Without a row for its `OP` and `SEL` a word's `SEL` is past the selectors of its code. -/
theorem le_sel_of_no_row {n : Nat} (k : Nat) (hop : f.op.toNat = n)
    (hrows : ∀ j < k, ∃ r ∈ opcodeRows, r.op = n ∧ r.sel = j) : k ≤ f.sel.toNat := by
  by_contra hk
  obtain ⟨r, hr, hrop, hrsel⟩ := hrows f.sel.toNat (Nat.lt_of_not_le hk)
  exact hno ⟨r, hr, by simp [hrop, ← hop], by simp [hrsel]⟩

/-- Without a row for its `OP` and `SEL` a word is refused, and for its code exactly if R55 does not list it (R56). -/
theorem decodeFields_of_no_row :
    ∃ why, decodeFields f = .error why ∧ (why = .unassignedOp ↔ f.op.toNat ∉ assignedOps) := by
  unfold decodeFields
  split
  case h_24 => exact ⟨.unassignedOp, rfl, by simp_all [assignedOps]⟩
  case h_5 hop | h_6 hop =>
    have hsel := le_sel_of_no_row hno 6 hop (by decide)
    refine ⟨.selectorOutOfRange, ?_, by simp [hop, assignedOps]⟩
    simp only [decodeRdreg, decodeWrreg]
    split <;> simp_all
  case h_7 hop | h_8 hop =>
    have hsel := le_sel_of_no_row hno 8 hop (by decide)
    refine ⟨.selectorOutOfRange, ?_, by simp [hop, assignedOps]⟩
    simp only [decodeRdflg, decodeWrflg]
    split <;> simp_all
  all_goals
    next hop =>
    have hsel := le_sel_of_no_row hno 1 hop (by decide)
    have hz : f.selZero = false := beq_eq_false_iff_ne.2 fun h => by simp [h] at hsel
    exact ⟨.mustBeZero, by simp [acceptZ, accept, hz], by simp [hop, assignedOps]⟩

end

theorem exists_decode_of_spells (hr : r ∈ opcodeRows) (h : r.spells w = true) :
    ∃ i, decode w = .ok i ∧ i.mnemonic = r.mnemonic ∧ encode i = w := by
  obtain ⟨hf, hunused⟩ := (Row.spells_iff hr).1 h
  obtain ⟨i, hname, hfields, hdecode⟩ := decodeFields_of_row hr hf
  refine ⟨i, hdecode.trans (accept_eq_ok.2 ⟨hunused, rfl⟩), hname, ?_⟩
  rw [encode, hfields, Row.kept_eq_of_unusedZero hunused, Fields.toCommand_ofCommand]

theorem exists_row_spells_of_decode (h : decode w = .ok i) :
    ∃ r ∈ opcodeRows, r.spells w = true ∧ i.mnemonic = r.mnemonic := by
  by_cases hrow : ∃ r ∈ opcodeRows, r.hasCodesOf (Fields.ofCommand w)
  · obtain ⟨r, hr, hf⟩ := hrow
    obtain ⟨j, hname, -, hdecode⟩ := decodeFields_of_row hr hf
    obtain ⟨hunused, rfl⟩ := accept_eq_ok.1 (hdecode.symm.trans h)
    exact ⟨r, hr, (Row.spells_iff hr).2 ⟨hf, hunused⟩, hname⟩
  · obtain ⟨why, hdecode, -⟩ := decodeFields_of_no_row hrow
    cases hdecode.symm.trans h

theorem accepted_iff_decode_ok : accepted w = true ↔ ∃ i, decode w = .ok i := by
  rw [accepted, List.any_eq_true]
  constructor
  · rintro ⟨r, hr, h⟩
    obtain ⟨i, hd, -, -⟩ := exists_decode_of_spells hr h
    exact ⟨i, hd⟩
  · rintro ⟨i, hd⟩
    obtain ⟨r, hr, h, -⟩ := exists_row_spells_of_decode hd
    exact ⟨r, hr, h⟩

theorem accepted_eq_false_iff_decode_error : accepted w = false ↔ ∃ why, decode w = .error why := by
  rw [← Bool.not_eq_true, accepted_iff_decode_ok]
  cases decode w <;> simp

theorem decode_eq_unassignedOp_iff :
    decode w = .error .unassignedOp ↔ (Fields.ofCommand w).op.toNat ∉ assignedOps := by
  by_cases hrow : ∃ r ∈ opcodeRows, r.hasCodesOf (Fields.ofCommand w)
  · obtain ⟨r, hr, hf⟩ := hrow
    obtain ⟨i, -, -, hdecode⟩ := decodeFields_of_row hr hf
    have hne : decode w ≠ .error .unassignedOp := by
      rw [decode, hdecode]
      cases r.unusedZero (Fields.ofCommand w) <;> simp [accept]
    exact iff_of_false hne (not_not_intro (op_mem_assignedOps hr hf))
  · obtain ⟨why, hdecode, hwhy⟩ := decodeFields_of_no_row hrow
    rw [decode, hdecode, ← hwhy, Except.error.injEq]

end
end Sys2Proof
end

section
/-! The assembler on commands as written, by the shape of their operands and the width of their numbers (R58, D16). -/

namespace Sys2Proof

/-- A command has the right operands when they are of its positions' kinds, one for one. -/
theorem Source.shapeOk_iff_forall₂ (c : Source) :
    c.shapeOk = true ↔ List.Forall₂ (fun k o => Operand.hasKind k o = true) c.kinds c.operands := by
  simp only [Source.shapeOk, Bool.and_eq_true, beq_iff_eq, List.all_eq_true, List.forall₂_iff_zip, Prod.forall]

section
variable {o : Operand}

@[simp] theorem Operand.hasKind_reg : o.hasKind .reg = true ↔ ∃ r, o = .reg r := by
  cases o <;> simp [Operand.hasKind]

@[simp] theorem Operand.hasKind_flag : o.hasKind .flag = true ↔ ∃ f, o = .flag f := by
  cases o <;> simp [Operand.hasKind]

@[simp] theorem Operand.hasKind_num {bits : Nat} : o.hasKind (.num bits) = true ↔ ∃ n, o = .num n := by
  cases o <;> simp [Operand.hasKind]

end

namespace Machine

/-- The assembler's answer to a command that has the right operands: an operation when the numbers fit, the error of R58
when one does not. -/
def AssemblesIff (fits : Prop) (e : Except SourceError Instr) : Prop :=
  (fits → ∃ i, e = .ok i) ∧ (¬ fits → e = .error .operandTooWide)

section
variable {fits : Prop}

theorem assemblesIff_ok (i : Instr) (h : fits) : AssemblesIff fits (.ok i) :=
  ⟨fun _ => ⟨i, rfl⟩, fun hn => absurd h hn⟩

theorem assemblesIff_fitted {bits n : Nat} (g : BitVec bits → Instr) (h : fits ↔ n < 2 ^ bits) :
    AssemblesIff fits (g <$> fitted bits n) := by
  by_cases hn : n < 2 ^ bits <;> simp [AssemblesIff, fitted, h, hn]

theorem assemblesIff_fittedBit {n : Nat} (g : Bool → Instr) (h : fits ↔ n < 2) :
    AssemblesIff fits (g <$> fittedBit n) := by
  by_cases hn : n < 2 <;> simp [AssemblesIff, fittedBit, h, hn]

theorem assemblesIff_fitted_bind {bits n : Nat} {fits' : Prop} {k : BitVec bits → Except SourceError Instr}
    (hk : ∀ v, AssemblesIff fits' (k v)) (h : fits ↔ n < 2 ^ bits ∧ fits') :
    AssemblesIff fits (fitted bits n >>= k) := by
  by_cases hn : n < 2 ^ bits
  · simpa [fitted, h, hn, bind, Except.bind] using hk _
  · simp [AssemblesIff, fitted, h, hn, bind, Except.bind]

end

/-- Every case of the assembler but the last one is for operands of the right shape. -/
theorem assemble_of_shapeOk_false {c : Source} (h : c.shapeOk = false) : assemble c = .error .wrongOperands := by
  obtain ⟨op, os⟩ := c
  simp only [assemble]
  split
  case h_24 => rfl
  case h_6 r n => cases r <;> cases (h : true = false)
  all_goals cases (h : true = false)

/-- With the right operands the assembler looks at the widths alone. -/
theorem assemblesIff_widthsOk {c : Source} (h : c.shapeOk = true) : AssemblesIff (c.widthsOk = true) (assemble c) := by
  obtain ⟨op, os⟩ := c
  rw [Source.shapeOk_iff_forall₂] at h
  cases op
  case MRD | RDB | RDW | PUSHW | PUSHB =>
    obtain ⟨n, rfl⟩ : ∃ n, os = [.num n] := by simpa [Source.kinds, List.forall₂_cons_left_iff] using h
    exact assemblesIff_fitted _ (by simp [Source.widthsOk, Source.kinds, Operand.fits])
  case MWR | WRB | WRW =>
    obtain ⟨n, m, rfl⟩ : ∃ n m, os = [.num n, .num m] := by
      simpa [Source.kinds, List.forall₂_cons_left_iff] using h
    exact assemblesIff_fitted_bind (fun _ => assemblesIff_fitted _ Iff.rfl)
      (by simp [Source.widthsOk, Source.kinds, Operand.fits])
  case RDREG =>
    obtain ⟨r, rfl⟩ : ∃ r, os = [.reg r] := by simpa [Source.kinds, List.forall₂_cons_left_iff] using h
    exact assemblesIff_ok _ rfl
  case WRREG =>
    obtain ⟨r, n, rfl⟩ : ∃ r n, os = [.reg r, .num n] := by
      simp only [Source.kinds] at h
      split at h <;> simpa [List.forall₂_cons_left_iff] using h
    cases r <;> exact assemblesIff_fitted _ (by simp [Source.widthsOk, Source.kinds, Operand.fits])
  case RDFLG =>
    obtain ⟨f, rfl⟩ : ∃ f, os = [.flag f] := by simpa [Source.kinds, List.forall₂_cons_left_iff] using h
    exact assemblesIff_ok _ rfl
  case WRFLG =>
    obtain ⟨f, n, rfl⟩ : ∃ f n, os = [.flag f, .num n] := by
      simpa [Source.kinds, List.forall₂_cons_left_iff] using h
    exact assemblesIff_fittedBit _ (by simp [Source.widthsOk, Source.kinds, Operand.fits])
  all_goals
    obtain rfl : os = [] := by simpa [Source.kinds] using h
    exact assemblesIff_ok _ rfl

end Machine
end Sys2Proof
end

section
/-! The caller's next word and the response word (R50, R57). -/

namespace Sys2Proof.Machine

/-- A command issued with `withFetchWord` is the next transaction, and taking it leaves the state it was issued in. -/
theorem step_withFetchWord {s : State} {w : Nat} {i : Instr} (hd : decode (BitVec.ofNat 64 w) = .ok i) :
    step (s.withFetchWord 64 w) = exec i s := by
  have hw : BitVec.ofNat 64 (w % 2 ^ 64) = BitVec.ofNat 64 w := by simp [← BitVec.toNat_inj]
  rw [State.withFetchWord, hw]
  exact step_of_decode_ok (State.issue_pending (BitVec.ofNat 64 w) (s := s)) hd

/-- The sign-extended byte keeps its eight low bits. -/
theorem setWidth_signExtend_byte (v : Byte) : (v.signExtend 16).setWidth 8 = v := by
  ext k hk
  have hk16 : k < 16 := by omega
  rw [BitVec.getElem_setWidth, BitVec.getLsbD_eq_getElem hk16, BitVec.getElem_signExtend hk16, dif_pos hk]

end Sys2Proof.Machine
end

section
namespace Sys2Proof.Proofs
open Sys2Proof.Machine

/-- Settles O49: the round trip of every operation through its fields (R52, R53, R55; D2, D3, D4). -/
theorem decodeOfEncodeIsTheOperation : Obligations.DecodeOfEncodeIsTheOperation :=
  decode_encode

/-- Settles O50: a row spells the word, and the row's operation has the word's fields (R52). -/
theorem encodeOfDecodeIsTheWord : Obligations.EncodeOfDecodeIsTheWord := by
  intro w i hd
  obtain ⟨r, hr, hw, -⟩ := exists_row_spells_of_decode hd
  obtain ⟨j, hj, -, henc⟩ := exists_decode_of_spells hr hw
  obtain rfl : j = i := Except.ok.inj (hj.symm.trans hd)
  exact henc

/-- Settles O51: the row that spells a decoded word is the one with the operation's mnemonic (R60). -/
theorem decoderAgreesWithTheOpcodeRows : Obligations.DecoderAgreesWithTheOpcodeRows := by
  intro w r hr
  constructor
  · intro h
    obtain ⟨i, hd, hname, -⟩ := exists_decode_of_spells hr h
    exact ⟨i, hd, hname⟩
  · rintro ⟨i, hd, hname⟩
    obtain ⟨r', hr', hw, hname'⟩ := exists_row_spells_of_decode hd
    obtain rfl : r' = r := opcodeRows_mnemonic_inj r' hr' r hr (hname'.symm.trans hname)
    exact hw

/-- Settles O52: both rows have the mnemonic of the one operation the word decodes to (R60). -/
theorem atMostOneRowSpellsAWord : Obligations.AtMostOneRowSpellsAWord := by
  intro w r₁ r₂ hr₁ hr₂ h₁ h₂
  obtain ⟨i₁, hd₁, hname₁, -⟩ := exists_decode_of_spells hr₁ h₁
  obtain ⟨i₂, hd₂, hname₂, -⟩ := exists_decode_of_spells hr₂ h₂
  obtain rfl : i₁ = i₂ := Except.ok.inj (hd₁.symm.trans hd₂)
  exact opcodeRows_mnemonic_inj r₁ hr₁ r₂ hr₂ (hname₁.symm.trans hname₂)

/-- Settles O53: the decoder refuses exactly the words no row spells, and `step` answers that refusal (R56). -/
theorem reservedWordsAreRefused : Obligations.ReservedWordsAreRefused := by
  refine ⟨fun w => accepted_eq_false_iff_decode_error.symm, fun w => decode_eq_unassignedOp_iff,
    fun s r rest hq hw => ?_⟩
  obtain ⟨why, hd⟩ := accepted_eq_false_iff_decode_error.1 hw
  exact ⟨why, step_of_decode_error hq hd⟩

/-- Settles O54: the shape of the operands decides first, then the widths (R58, D16, log 18). -/
theorem assemblerAcceptsExactlyTheWellFormed : Obligations.AssemblerAcceptsExactlyTheWellFormed := by
  intro c
  refine ⟨?_, assemble_of_shapeOk_false, fun hs hw => (assemblesIff_widthsOk hs).2 (by simp [hw])⟩
  cases hs : c.shapeOk with
  | false => simp [Source.wellFormed, hs, assemble_of_shapeOk_false hs]
  | true =>
    obtain ⟨haccept, hrefuse⟩ := assemblesIff_widthsOk hs
    cases hw : c.widthsOk with
    | false => simp [Source.wellFormed, hs, hw, hrefuse]
    | true => simp [Source.wellFormed, hs, hw, haccept]

/-- Settles O44: both extensions keep the number, and the sign extension keeps the byte (R57, D5). -/
theorem responseWordCodesTheResult : Obligations.ResponseWordCodesTheResult := by
  refine ⟨rfl, fun b => ?_, fun v => ?_, fun v => ⟨?_, setWidth_signExtend_byte v⟩, fun _ => rfl⟩
  · cases b <;> rfl
  · exact BitVec.toNat_setWidth_of_le (by decide)
  · exact BitVec.toInt_signExtend_of_le (by decide)

/-- Settles O48: the decoder evaluated on each word (R61, R91). -/
theorem workedEncodingsDecode : Obligations.WorkedEncodingsDecode :=
  ⟨rfl, rfl, rfl, rfl, rfl, rfl, rfl, rfl, rfl, rfl, rfl⟩

/-- Settles O55: `step` on an accepted next command, from any queue and from `withFetchWord` (R50). -/
theorem stepRunsTheDecodedOperation : Obligations.StepRunsTheDecodedOperation :=
  ⟨fun _ _ _ _ hq hd => step_of_decode_ok hq hd, fun _ _ _ hd => step_withFetchWord hd⟩

end Sys2Proof.Proofs
end

section
/-! The command word of an operation from its fields (R51), and the bounded read after a bounded write at the same
address (R31, R32). -/

namespace Sys2Proof

theorem Instr.hasWord_fields (i : Instr) :
    i.HasWord i.fields.op.toNat i.fields.sel.toNat i.fields.addr.toNat i.fields.data.toNat :=
  Fields.toCommand_toNat i.fields

/-- An operand byte is the number in `DATA` (R54). -/
theorem Instr.hasWord_of_data_byte {i : Instr} {v : Byte} (h : i.fields.data = v.setWidth 16) :
    i.HasWord i.fields.op.toNat i.fields.sel.toNat i.fields.addr.toNat v.toNat := by
  have hv : i.fields.data.toNat = v.toNat := h ▸ BitVec.toNat_setWidth_of_le (by decide)
  exact hv ▸ i.hasWord_fields

namespace Machine

theorem memRead_memWrite_inRange {m : Memory} (hm : m.wf = true) {a : Addr32} (ha : a.toNat < Config.memSize)
    (v : Byte) : memRead (memWrite m a v) a = v := by
  rw [memRead_inRange ha, cell_memWrite hm, if_pos ⟨rfl, ha⟩]

theorem exec_minit (s : State) : exec .minit s = .next { s with mem := Memory.initialised, response := .none } := rfl

theorem exec_mrd (a : Addr32) (s : State) :
    exec (.mrd a) s = .next { s with response := .byte (memRead s.mem a) } := rfl

theorem exec_mwr (a : Addr32) (v : Byte) (s : State) :
    exec (.mwr a v) s = .next { s with mem := memWrite s.mem a v, response := .none } := rfl

end Machine
end Sys2Proof
end

section
namespace Sys2Proof.Proofs
open Sys2Proof.Machine

/-- Settles O3: the one cell is what `memWrite` does to the cells, and the law is the bounded read after the bounded
write, split at the end of the array (R31, R32, R72). -/
theorem mwrWritesOneCellOrNothing : Obligations.MwrWritesOneCellOrNothing := by
  intro s a v hs
  refine ⟨Instr.hasWord_of_data_byte (i := .mwr a v) rfl, ⟨_, exec_mwr a v s, cell_memWrite hs a v⟩,
    Instr.nextState (.mrd a) (Instr.nextState (.mwr a v) s), ?_, fun ha => ?_, fun ha => ⟨?_, ?_⟩⟩
  · rw [execAll_cons, execAll_cons, execAll]
  · exact congrArg Response.byte (memRead_memWrite_inRange hs ha v)
  · exact congrArg Response.byte (memRead_outOfRange ha)
  · exact memWrite_outOfRange v ha

/-- Settles O1: the memory after `MINIT` is the cleared one (R45, R70). -/
theorem minitClearsEveryCell : Obligations.MinitClearsEveryCell :=
  ⟨Instr.hasWord_fields .minit, fun s => ⟨Memory.initialised, exec_minit s, Memory.cell_initialised⟩⟩

/-- Settles O2: the response is the bounded read, the cell in range and the sentinel out of range (R31, R71). -/
theorem mrdReturnsCellOrZero : Obligations.MrdReturnsCellOrZero := by
  refine fun s a => ⟨Instr.hasWord_fields (.mrd a), ?_⟩
  rw [exec_mrd]
  split
  · next ha => rw [memRead_inRange ha]
  · next ha => rw [memRead_outOfRange (Nat.le_of_not_lt ha), Config.oorRead]

end Sys2Proof.Proofs
end

section
/-! Reset, register and flag access (41_system_and_register_access.md): what each operation does, by the register or the
flag it names, the status byte as a number, the command words and the selectors out of range (R55, R56). -/

namespace Sys2Proof

section
variable {f : Fields}

/-- The registers have the selectors 0 to 5: no arm of either map is left but the last (R55, R56). -/
theorem decode_register_of_le_sel (h : 6 ≤ f.sel.toNat) :
    decodeRdreg f = .error .selectorOutOfRange ∧ decodeWrreg f = .error .selectorOutOfRange := by
  unfold decodeRdreg decodeWrreg
  constructor <;> split <;> simp_all

/-- The flags have the selectors 0 to 7: no arm of either map is left but the last (R55, R56). -/
theorem decode_flag_of_le_sel (h : 8 ≤ f.sel.toNat) :
    decodeRdflg f = .error .selectorOutOfRange ∧ decodeWrflg f = .error .selectorOutOfRange := by
  unfold decodeRdflg decodeWrflg
  constructor <;> split <;> simp_all

theorem decodeFields_rdreg (h : f.op = 0x21) : decodeFields f = decodeRdreg f := by rw [decodeFields, h]; rfl

theorem decodeFields_wrreg (h : f.op = 0x22) : decodeFields f = decodeWrreg f := by rw [decodeFields, h]; rfl

theorem decodeFields_rdflg (h : f.op = 0x23) : decodeFields f = decodeRdflg f := by rw [decodeFields, h]; rfl

theorem decodeFields_wrflg (h : f.op = 0x24) : decodeFields f = decodeWrflg f := by rw [decodeFields, h]; rfl

end

namespace Machine

/-- The selector of a flag is its index (R55, R83). -/
theorem hasWord_readFlagInstr (f : Flag) : (readFlagInstr f).HasWord 0x23 (Config.flagBit f) 0 0 := by
  cases f <;> exact Instr.hasWord_fields _

/-- The selector of a flag is its index, and the operand bit is the number in `DATA` (R54, R55, R84). -/
theorem hasWord_writeFlagInstr (b : Bool) (f : Flag) :
    (writeFlagInstr b f).HasWord 0x24 (Config.flagBit f) 0 b.toNat := by
  cases f <;> cases b <;> exact Instr.hasWord_fields _

theorem exec_readInstr (r : RegName) (s : State) :
    exec (readInstr r) s = .next { s with response := readRegister r s } := by
  cases r <;> rfl

theorem exec_readFlagInstr (f : Flag) (s : State) :
    exec (readFlagInstr f) s = .next { s with response := .bit (s.p.get f) } := by
  cases f <;> rfl

theorem exec_writeFlagInstr (b : Bool) (f : Flag) (s : State) :
    exec (writeFlagInstr b f) s = .next { s with p := s.p.set f b, response := .none } := by
  cases f <;> rfl

/-- The status byte is the number whose binary digits are the flags (R15). -/
theorem Flags.toByte_toNat (p : Flags) :
    p.toByte.toNat = p.c.toNat + 2 * p.z.toNat + 4 * p.i.toNat + 8 * p.d.toNat + 16 * p.b.toNat + 32 * p.u.toNat +
      64 * p.v.toNat + 128 * p.n.toNat := by
  have hbits : (fun k : Fin 8 => p.toByte.toNat.testBit k) = ![p.c, p.z, p.i, p.d, p.b, p.u, p.v, p.n] := by
    funext k
    fin_cases k
    exacts [p.getLsbD_toByte .C, p.getLsbD_toByte .Z, p.getLsbD_toByte .I, p.getLsbD_toByte .D, p.getLsbD_toByte .B,
      p.getLsbD_toByte .U, p.getLsbD_toByte .V, p.getLsbD_toByte .N]
  rw [← Nat.mod_eq_of_lt p.toByte.isLt, ← Nat.ofBits_testBit, hbits]
  simp [Nat.ofBits_succ]
  ring

/-- After `RESET` every flag but `U` is 0, so the status byte is 0x20 or 0 (R80). -/
theorem Flags.toByte_toNat_cleared (p : Flags) : p.cleared.toByte.toNat = 0x20 * p.u.toNat := by
  simp [Flags.toByte_toNat, Flags.cleared]

theorem exec_reset (s : State) :
    exec .reset s = .next
      { a := 0x00, x := 0x00, y := 0x00, pc := Config.resetPc, sp := Config.resetSp, p := s.p.cleared,
        mem := Memory.initialised, cyc := s.cyc, response := .none, pending := s.pending } := rfl

end Machine
end Sys2Proof
end

section
namespace Sys2Proof.Proofs
open Sys2Proof.Machine

/-- Settles O6: of the state before, the one after keeps `P.U`, the budget and the queue, and these `RESET` does not
write; so the second `RESET`, and one from any state with the same three, ends in the same state. -/
theorem resetWritesAllButUnused : Obligations.ResetWritesAllButUnused := by
  refine ⟨Instr.hasWord_fields .reset, fun s => ⟨Memory.initialised, _, exec_reset s, rfl, Memory.cell_initialised,
    s.p.toByte_toNat_cleared, exec_reset _, fun s' hu hcyc hq => ?_⟩⟩
  rw [exec_reset, Flags.cleared, hu, hcyc, hq, Flags.cleared]

/-- Settles O7: the response is the register, for `P` the status byte as the number of its flags (R15, R81). -/
theorem rdregReturnsTheRegister : Obligations.RdregReturnsTheRegister := by
  refine ⟨fun s => ⟨exec_readInstr .A s, exec_readInstr .X s, exec_readInstr .Y s, exec_readInstr .SP s,
      exec_readInstr .PC s, s.p.toByte, exec_readInstr .P s, s.p.toByte_toNat⟩,
    Instr.hasWord_fields .rdregA, Instr.hasWord_fields .rdregX, Instr.hasWord_fields .rdregY,
    Instr.hasWord_fields .rdregSP, Instr.hasWord_fields .rdregPC, Instr.hasWord_fields .rdregP, fun f hop hsel => ?_⟩
  rw [decodeFields_rdreg hop, (decode_register_of_le_sel hsel).1]

/-- Settles O8: each operation is the update of its register, by definition, `Flags.fromByte` for `P` (R15, R82). -/
theorem wrregWritesTheRegisterOnly : Obligations.WrregWritesTheRegisterOnly := by
  refine ⟨fun s v w => ⟨rfl, rfl, rfl, rfl, rfl, rfl⟩, fun v w => ?_, fun f hop hsel => ?_⟩
  · exact ⟨Instr.hasWord_of_data_byte (i := .wrregA v) rfl, Instr.hasWord_of_data_byte (i := .wrregX v) rfl,
      Instr.hasWord_of_data_byte (i := .wrregY v) rfl, Instr.hasWord_of_data_byte (i := .wrregSP v) rfl,
      Instr.hasWord_fields (.wrregPC w), Instr.hasWord_of_data_byte (i := .wrregP v) rfl⟩
  · rw [decodeFields_wrreg hop, (decode_register_of_le_sel hsel).2]

/-- Settles O9: the response is the flag, which is its bit of the status byte (R15, R83, D10). -/
theorem rdflgReturnsTheFlag : Obligations.RdflgReturnsTheFlag := by
  refine ⟨fun s => ⟨exec_readFlagInstr .C s, exec_readFlagInstr .Z s, exec_readFlagInstr .I s, exec_readFlagInstr .D s,
      exec_readFlagInstr .B s, exec_readFlagInstr .U s, exec_readFlagInstr .V s, exec_readFlagInstr .N s⟩,
    hasWord_readFlagInstr .C, hasWord_readFlagInstr .Z, hasWord_readFlagInstr .I, hasWord_readFlagInstr .D,
    hasWord_readFlagInstr .B, hasWord_readFlagInstr .U, hasWord_readFlagInstr .V, hasWord_readFlagInstr .N,
    fun f hop hsel => ?_, fun s f => ?_⟩
  · rw [decodeFields_rdflg hop, (decode_flag_of_le_sel hsel).1]
  · exact ⟨_, _, s.p.toByte, exec_readInstr .P s, rfl, exec_readFlagInstr f s,
      congrArg Response.bit (s.p.getLsbD_toByte f).symm⟩

/-- Settles O10: the status word after is `Flags.set` of the one flag (R84). -/
theorem wrflgWritesTheFlagOnly : Obligations.WrflgWritesTheFlagOnly := by
  refine ⟨fun s b => ?_, fun b => ?_, fun f hop hsel => ?_⟩
  · exact ⟨exec_writeFlagInstr b .C s, exec_writeFlagInstr b .Z s, exec_writeFlagInstr b .I s,
      exec_writeFlagInstr b .D s, exec_writeFlagInstr b .B s, exec_writeFlagInstr b .U s, exec_writeFlagInstr b .V s,
      exec_writeFlagInstr b .N s⟩
  · exact ⟨hasWord_writeFlagInstr b .C, hasWord_writeFlagInstr b .Z, hasWord_writeFlagInstr b .I,
      hasWord_writeFlagInstr b .D, hasWord_writeFlagInstr b .B, hasWord_writeFlagInstr b .U,
      hasWord_writeFlagInstr b .V, hasWord_writeFlagInstr b .N⟩
  · rw [decodeFields_wrflg hop, (decode_flag_of_le_sel hsel).2]

end Sys2Proof.Proofs
end

section
/-! The fetch operations (42_fetch.md): what each does to the state, `PC` past a fetch as a number modulo 65536, and the
signed byte as a number and on the response word (R57, R91). -/

namespace Sys2Proof.Machine

theorem exec_fetchb (s : State) :
    exec .fetchb s =
      .next { s with pc := s.pc + 1#16, cyc := s.cyc - 1, response := .byte (s.mem.cell s.pc.toNat) } :=
  exec_eq_nextState .fetchb s

theorem exec_fetchsb (s : State) :
    exec .fetchsb s =
      .next { s with pc := s.pc + 1#16, cyc := s.cyc - 1, response := .signedByte (s.mem.cell s.pc.toNat) } :=
  exec_eq_nextState .fetchsb s

theorem exec_fetchw (s : State) :
    exec .fetchw s = .next { s with pc := s.pc + 2#16, cyc := s.cyc - 2, response := .word (s.mem.wordAt s.pc) } :=
  exec_eq_nextState .fetchw s

/-- A sum on 16 bits is the sum of the numbers modulo 65536 (R12). -/
theorem ofNat_toNat_add_mod (w : Word) (k : Nat) :
    BitVec.ofNat 16 ((w.toNat + k) % 65536) = w + BitVec.ofNat 16 k :=
  BitVec.eq_of_toNat_eq (by simp [BitVec.toNat_add])

theorem Memory.wordAt_toNat (m : Memory) (a : Addr16) :
    (m.wordAt a).toNat = (m.cell a.toNat).toNat + 256 * (m.cell ((a.toNat + 1) % 65536)).toNat := by
  rw [Memory.wordAt, makeWord_toNat, nextAddress_toNat]

/-- The signed byte as a number: bit 7 weighs -128 (R57, R91). -/
theorem Response.value_signedByte (v : Byte) :
    (Response.signedByte v).value = some (if v.toNat < 128 then (v.toNat : Int) else (v.toNat : Int) - 256) := by
  rw [Response.value, BitVec.toInt_eq_toNat_cond]
  congr 2
  simp only [eq_iff_iff]
  omega

/-- The signed byte on the response word: the sign extension fills bits 8 to 15 with bit 7 (R57, D5). -/
theorem Response.toRes_signedByte_toNat (v : Byte) :
    (Response.signedByte v).toRes.toNat = if v.toNat < 128 then v.toNat else v.toNat + 0xFF00 := by
  rw [Response.toRes, BitVec.toNat_signExtend, BitVec.msb_eq_decide, BitVec.toNat_setWidth_of_le (by decide)]
  by_cases hv : v.toNat < 128
  · simp [hv]
  · simp [hv, Nat.le_of_not_lt hv]

end Sys2Proof.Machine
end

section
namespace Sys2Proof.Proofs
open Sys2Proof.Machine

/-- Settles O12: the state after `FETCHB`, its `PC` as a number modulo 65536 (R90). -/
theorem fetchbReadsAndAdvances : Obligations.FetchbReadsAndAdvances := by
  refine ⟨Instr.hasWord_fields .fetchb, fun s => ?_⟩
  rw [exec_fetchb, ofNat_toNat_add_mod]

/-- Settles O13: as `FETCHB`, the response the signed byte, whose number and coding split at 128 (R57, R91). -/
theorem fetchsbReturnsASignedByte : Obligations.FetchsbReturnsASignedByte := by
  refine ⟨Instr.hasWord_fields .fetchsb, fun s => ⟨.signedByte (s.mem.cell s.pc.toNat), ?_,
    Response.value_signedByte _, Response.toRes_signedByte_toNat _⟩⟩
  rw [exec_fetchsb, ofNat_toNat_add_mod]

/-- Settles O14: the word at `PC`, its high byte's address wrapped by `nextAddress` (R34, R92, D8). -/
theorem fetchwReadsAWordAndAdvances : Obligations.FetchwReadsAWordAndAdvances := by
  refine ⟨Instr.hasWord_fields .fetchw, fun s => ⟨s.mem.wordAt s.pc, ?_, s.mem.wordAt_toNat s.pc⟩⟩
  rw [exec_fetchw, ofNat_toNat_add_mod]

/-- Settles O15: the second `FETCHB` reads at `PC + 1`, the high byte's address of the word, and the two steps of `PC`
and of the budget add up to those of `FETCHW` (R92). -/
theorem fetchwIsTwoFetchb : Obligations.FetchwIsTwoFetchb := by
  intro s
  refine ⟨_, _, _, _, _, exec_fetchb s, rfl, exec_fetchb _, rfl, exec_fetchw s, ?_⟩
  have hpc : s.pc + 1#16 + 1#16 = s.pc + 2#16 := BitVec.add_assoc s.pc 1#16 1#16
  have hcyc : s.cyc - 1 - 1 = s.cyc - 2 := Int.sub_sub s.cyc 1 1
  rw [hpc, hcyc]
  rfl

end Sys2Proof.Proofs
end

section
/-! The read and write operations (43_read_write.md): the command words with a 16-bit address, what each operation does
to the state, the bytes a word write leaves, and what an operation answers after another. -/

namespace Sys2Proof

/-- A 16-bit address is the number in `ADDR` (R54). -/
theorem Instr.hasWord_of_addr16 {i : Instr} {a : Addr16} {data : Nat} (ha : i.fields.addr = a.setWidth 32)
    (hd : i.fields.data.toNat = data) : i.HasWord i.fields.op.toNat i.fields.sel.toNat a.toNat data := by
  have haddr : i.fields.addr.toNat = a.toNat := ha ▸ Machine.zext32_toNat a
  exact haddr ▸ hd ▸ i.hasWord_fields

namespace Machine

theorem exec_rdb (a : Addr16) (s : State) :
    exec (.rdb a) s = .next { s with cyc := s.cyc - 1, response := .byte (s.mem.cell a.toNat) } :=
  exec_eq_nextState (.rdb a) s

theorem exec_rdw (a : Addr16) (s : State) :
    exec (.rdw a) s = .next { s with cyc := s.cyc - 2, response := .word (s.mem.wordAt a) } :=
  exec_eq_nextState (.rdw a) s

theorem exec_wrb (v : Byte) (a : Addr16) (s : State) :
    exec (.wrb v a) s =
      .next { s with mem := memWrite s.mem (zext32 a) v, cyc := s.cyc - 1, response := .none } :=
  exec_eq_nextState (.wrb v a) s

theorem exec_wrw (v : Word) (a : Addr16) (s : State) :
    exec (.wrw v a) s =
      .next { s with mem := (busWriteWord a v s).mem, cyc := s.cyc - 2, response := .none } :=
  exec_eq_nextState (.wrw v a) s

theorem setWidth_eq_loByte (v : Word) : v.setWidth 8 = loByte v :=
  BitVec.eq_of_toNat_eq (by simp)

theorem ofNat_mod_eq_loByte (v : Word) : BitVec.ofNat 8 (v.toNat % 256) = loByte v :=
  BitVec.eq_of_toNat_eq (by simp)

theorem ofNat_div_eq_hiByte (v : Word) : BitVec.ofNat 8 (v.toNat / 256) = hiByte v := by
  rw [← hiByte_toNat, BitVec.ofNat_toNat, BitVec.setWidth_eq]

/-- The second operation's result is the response after the two. -/
theorem exists_execAll_pair_response {i j : Instr} {s : State} {r : Response} (h : j.result (i.nextState s) = r) :
    ∃ t, execAll [i, j] s = .next t ∧ t.response = r :=
  ⟨j.nextState (i.nextState s), by rw [execAll_cons, execAll_cons, execAll], h⟩

section
variable {s : State} (hs : s.Inv) (a : Addr16) (v : Word)
include hs

theorem cell_busWriteWord_low : (busWriteWord a v s).mem.cell a.toNat = loByte v := by
  rw [cell_busWriteWord hs, if_pos rfl]

/-- The high byte's address is not the low byte's, also where it wraps (R36, R37). -/
theorem cell_busWriteWord_high : (busWriteWord a v s).mem.cell (nextAddress a).toNat = hiByte v := by
  rw [cell_busWriteWord hs, if_neg (nextAddress_ne a), if_pos (nextAddress_toNat a)]

theorem wordAt_busWriteWord : (busWriteWord a v s).mem.wordAt a = v := by
  rw [Memory.wordAt, cell_busWriteWord_low hs, cell_busWriteWord_high hs, makeWord_bytes]

end

end Machine
end Sys2Proof
end

section
namespace Sys2Proof.Proofs
open Sys2Proof.Machine

/-- Settles O19: what the processor port's write does to the cells (R32, R102). -/
theorem wrbWritesOneCell : Obligations.WrbWritesOneCell := by
  intro s v a hs
  have hdata : (Instr.wrb v a).fields.data.toNat = v.toNat := BitVec.toNat_setWidth_of_le (by decide)
  exact ⟨Instr.hasWord_of_addr16 (i := .wrb v a) rfl hdata, memWrite s.mem (zext32 a) v, exec_wrb v a s,
    cell_memWrite_zext32 hs a v⟩

/-- Settles O20: what the word write does to the cells, its two bytes as numbers (R34, R37, R103). -/
theorem wrwWritesTwoCells : Obligations.WrwWritesTwoCells := by
  intro s v a hs
  refine ⟨Instr.hasWord_of_addr16 (i := .wrw v a) rfl rfl, (busWriteWord a v s).mem, exec_wrw v a s, ?_⟩
  rw [ofNat_mod_eq_loByte, ofNat_div_eq_hiByte]
  exact cell_busWriteWord hs a v

/-- Settles O21: each read after the word write returns what the write left where it reads (R34, R103). -/
theorem wrwThenReadsReturnItsBytes : Obligations.WrwThenReadsReturnItsBytes := by
  refine fun s v a hs => ⟨exists_execAll_pair_response ?_, exists_execAll_pair_response ?_,
    exists_execAll_pair_response ?_⟩
  · exact congrArg Response.word (wordAt_busWriteWord hs a v)
  · rw [setWidth_eq_loByte]
    exact congrArg Response.byte (cell_busWriteWord_low hs a v)
  · exact congrArg Response.byte (cell_busWriteWord_high hs a v)

/-- Settles O17: the state after `RDB` (R100). -/
theorem rdbReturnsTheCell : Obligations.RdbReturnsTheCell :=
  fun s a => ⟨Instr.hasWord_of_addr16 (i := .rdb a) rfl rfl, exec_rdb a s⟩

/-- Settles O18: the word at the address, its high byte's address wrapped by `nextAddress` (R34, R101, D7). -/
theorem rdwReturnsTheWord : Obligations.RdwReturnsTheWord :=
  fun s a => ⟨s.mem.wordAt a, Instr.hasWord_of_addr16 (i := .rdw a) rfl rfl, exec_rdw a s, s.mem.wordAt_toNat a⟩

/-- Settles O22: the second `RDB` reads the high byte's cell, and the two charges add up to that of `RDW`; a word write
is its two byte writes by definition (R101, R103). -/
theorem wordAccessIsTwoByteAccesses : Obligations.WordAccessIsTwoByteAccesses := by
  refine fun s a => ⟨⟨_, _, _, _, exec_rdb a s, rfl, exec_rdb (a + 1) _, rfl, ?_⟩, fun v => ?_⟩
  · have hcyc : s.cyc - 1 - 1 = s.cyc - 2 := Int.sub_sub s.cyc 1 1
    rw [exec_rdw, hcyc]
    rfl
  · rw [setWidth_eq_loByte, execAll_cons, execAll_cons, execAll]
    exact ⟨_, rfl, rfl⟩

end Sys2Proof.Proofs
end

section
/-! The stack operations (44_stack.md): what each does to the state, the stack pointer as a number modulo 256, the cells
a word push leaves and the word a pop reads. -/

namespace Sys2Proof.Machine

theorem exec_stkaddr (s : State) : exec .stkaddr s = .next { s with response := .word (stackAddress s.sp) } := rfl

theorem nextState_pushb (v : Byte) (s : State) :
    Instr.nextState (.pushb v) s =
      { s with mem := (pushByte v s).mem, sp := s.sp - 1#8, cyc := s.cyc - 2, response := .none } := rfl

theorem nextState_pushw (v : Word) (s : State) :
    Instr.nextState (.pushw v) s =
      { s with mem := (pushWord v s).mem, sp := s.sp - 2#8, cyc := s.cyc - 2, response := .none } := rfl

theorem nextState_popb (s : State) :
    Instr.nextState .popb s =
      { s with
        sp := s.sp + 1#8, cyc := s.cyc - 2, response := .byte (s.mem.cell (stackAddress (s.sp + 1#8)).toNat) } := rfl

theorem nextState_popw (s : State) :
    Instr.nextState .popw s =
      { s with sp := s.sp + 2#8, cyc := s.cyc - 2, response := .word (s.mem.wordAt (popWordAddress s.sp)) } := rfl

section
variable (sp : Byte)

/-- The stack page (R13). -/
theorem stackAddress_mem_page : 256 ≤ (stackAddress sp).toNat ∧ (stackAddress sp).toNat < 512 := by
  have := sp.isLt
  rw [stackAddress_toNat]
  omega

/-- The two cells of a word push differ, also where the second wraps (R111). -/
theorem pushWord_cells_ne : 256 + (sp - 1#8).toNat ≠ 256 + sp.toNat := by bv_omega

theorem toNat_add_mod_256 (k : Nat) : (sp.toNat + k) % 256 = (sp + BitVec.ofNat 8 k).toNat := by simp [BitVec.toNat_add]

theorem ofNat_toNat_add_mod_byte (k : Nat) : BitVec.ofNat 8 ((sp.toNat + k) % 256) = sp + BitVec.ofNat 8 k := by
  rw [toNat_add_mod_256, BitVec.ofNat_toNat, BitVec.setWidth_eq]

theorem add_255_eq_pred : sp + 255#8 = sp - 1#8 := (BitVec.sub_eq_add_neg sp 1#8).symm

theorem add_254_eq_sub_two : sp + 254#8 = sp - 2#8 := (BitVec.sub_eq_add_neg sp 2#8).symm

/-- The little-endian word a word pop reads (R34, R117). -/
theorem Memory.wordAt_popWordAddress (m : Memory) :
    m.wordAt (popWordAddress sp) = makeWord (m.cell (258 + sp.toNat)) (m.cell (257 + sp.toNat)) := by
  have hnext : (257 + sp.toNat + 1) % 65536 = 258 + sp.toNat := by have := sp.isLt; omega
  rw [Memory.wordAt, nextAddress_toNat, popWordAddress_toNat, hnext]

end

section
variable {s : State} (hs : s.Inv) (v : Word)
include hs

theorem cell_pushWord_low : (pushWord v s).mem.cell (256 + (s.sp - 1#8).toNat) = loByte v :=
  (cell_pushWord hs v _).trans (if_pos rfl)

theorem cell_pushWord_high : (pushWord v s).mem.cell (256 + s.sp.toNat) = hiByte v :=
  (cell_pushWord hs v _).trans ((if_neg (pushWord_cells_ne s.sp).symm).trans (if_pos rfl))

theorem cell_pushWord_abovePage {n : Nat} (hn : 512 ≤ n) : (pushWord v s).mem.cell n = s.mem.cell n := by
  have h := s.sp.isLt
  have h' := (s.sp - 1).isLt
  rw [cell_pushWord hs, if_neg (by omega), if_neg (by omega)]

/-- An operation that completes as a word push does what R111 says, its bytes as numbers. -/
theorem pushesWord_of_exec_eq {i : Instr} (h : exec i s = exec (.pushw v) s) : PushesWord i v.toNat s := by
  refine ⟨(pushWord v s).mem, ?_, fun n => ?_⟩
  · rw [h, exec_eq_nextState, nextState_pushw, ofNat_toNat_add_mod_byte, add_254_eq_sub_two]
  · rw [ofNat_div_eq_hiByte, ofNat_mod_eq_loByte, toNat_add_mod_256, add_255_eq_pred]
    by_cases hhi : n = 256 + s.sp.toNat
    · rw [if_pos hhi, hhi]
      exact cell_pushWord_high hs v
    · rw [if_neg hhi, cell_pushWord hs, if_neg hhi]
      rfl

end

end Sys2Proof.Machine
end

section
namespace Sys2Proof.Proofs
open Sys2Proof.Machine

/-- Settles O24: what a word push does to the state and to the cells (R111). -/
theorem pushwPushesHighByteFirst : Obligations.PushwPushesHighByteFirst :=
  fun _ v hs => ⟨Instr.hasWord_fields (.pushw v), pushesWord_of_exec_eq hs v rfl⟩

/-- Settles O25: both are the word push of a neighbour of `PC`, which as a number is modulo 65536 (R112, R113, D9). -/
theorem pushPcVariantsPushNeighbours : Obligations.PushPcVariantsPushNeighbours := by
  refine ⟨Instr.hasWord_fields .pushpcm1, Instr.hasWord_fields .pushpcp1, fun s hs => ⟨?_, ?_⟩⟩
  · have hpc : (s.pc.toNat + 65535) % 65536 = (s.pc - 1).toNat := by bv_omega
    exact hpc ▸ pushesWord_of_exec_eq hs (s.pc - 1) rfl
  · have hpc : (s.pc.toNat + 1) % 65536 = (s.pc + 1).toNat := by bv_omega
    exact hpc ▸ pushesWord_of_exec_eq hs (s.pc + 1) rfl

/-- Settles O26: it is the word push of `PC` (R114). -/
theorem pushpcPushesPc : Obligations.PushpcPushesPc :=
  ⟨Instr.hasWord_fields .pushpc, fun s hs => pushesWord_of_exec_eq hs s.pc rfl⟩

/-- Settles O27: what a byte push does to the state and to the cells (R115). -/
theorem pushbWritesThenDecrements : Obligations.PushbWritesThenDecrements := by
  refine fun s v hs => ⟨Instr.hasWord_of_data_byte (i := .pushb v) rfl, (pushByte v s).mem, ?_, cell_pushByte hs v⟩
  rw [exec_eq_nextState, nextState_pushb, ofNat_toNat_add_mod_byte, add_255_eq_pred]

/-- Settles O23: the or is a sum, as `SP` has no bit of the stack base (R13, R110). -/
theorem stkaddrReturnsThePageAddress : Obligations.StkaddrReturnsThePageAddress := by
  refine ⟨Instr.hasWord_fields .stkaddr, fun s => ⟨stackAddress s.sp, exec_stkaddr s, rfl, stackAddress_toNat s.sp,
    ?_⟩⟩
  obtain ⟨hlo, hhi⟩ := stackAddress_mem_page s.sp
  exact ⟨hlo, Nat.le_of_lt_succ hhi⟩

/-- Settles O28: the state after `POPB`, the new `SP` as a number modulo 256 (R116). -/
theorem popbIncrementsThenReads : Obligations.PopbIncrementsThenReads := by
  refine ⟨Instr.hasWord_fields .popb, fun s => ?_⟩
  rw [exec_eq_nextState, nextState_popb, stackAddress_toNat, ofNat_toNat_add_mod_byte, toNat_add_mod_256]

/-- Settles O29: the word at the 16-bit sum, its bytes at the two cells above the stack address (R34, R117). -/
theorem popwReadsAtTheUnmaskedSum : Obligations.PopwReadsAtTheUnmaskedSum := by
  refine ⟨Instr.hasWord_fields .popw, fun s => ⟨s.mem.wordAt (popWordAddress s.sp), ?_, ?_⟩⟩
  · rw [exec_eq_nextState, nextState_popw, ofNat_toNat_add_mod_byte]
  · rw [Memory.wordAt_popWordAddress, makeWord_toNat]

end Sys2Proof.Proofs
end

section
/-! Pushes and pops in a row: the state a sequence of operations ends in, the word that comes back from a word push
(R118), the same from two byte pushes (R119), and byte pushes down the stack page (R115, R156). -/

namespace Sys2Proof.Machine

/-- The state after a sequence of operations. -/
def nextStateAll (is : List Instr) (s : State) : State := is.foldl (fun t i => i.nextState t) s

theorem execAll_eq_nextStateAll (is : List Instr) : ∀ s, execAll is s = .next (nextStateAll is s) := by
  induction is with
  | nil => exact fun s => rfl
  | cons i is ih => exact fun s => (execAll_cons i is s).trans (ih (i.nextState s))

theorem exists_execAll_iff {is : List Instr} {s : State} {p : State → Prop} :
    (∃ t, execAll is s = .next t ∧ p t) ↔ p (nextStateAll is s) := by
  simp [execAll_eq_nextStateAll]

theorem inv_nextState {s : State} (hs : s.Inv) (i : Instr) : (i.nextState s).Inv := Instr.wf_nextMem hs

/-- The word `POPW` returns right after `PUSHW v`. -/
def wordThroughStack (v : Word) (s : State) : Word := (pushWord v s).mem.wordAt (popWordAddress (s.sp - 2#8))

theorem nextStateAll_pushw_popw (v : Word) (s : State) :
    nextStateAll [.pushw v, .popw] s =
      { s with mem := (pushWord v s).mem, cyc := s.cyc - 4, response := .word (wordThroughStack v s) } := by
  have hsp : s.sp - 2#8 + 2#8 = s.sp := BitVec.sub_add_cancel s.sp 2#8
  have hcyc : s.cyc - 2 - 2 = s.cyc - 4 := Int.sub_sub s.cyc 2 2
  simp only [nextStateAll, List.foldl, nextState_pushw, nextState_popw, hsp, hcyc, wordThroughStack]

/-- Two byte pushes are one word push at twice the cost (R111, R157). -/
theorem nextStateAll_pushb_pushb (h l : Byte) (s : State) :
    nextStateAll [.pushb h, .pushb l] s = { Instr.nextState (.pushw (makeWord h l)) s with cyc := s.cyc - 4 } := by
  have hsp : s.sp - 1#8 - 1#8 = s.sp - 2#8 := BitVec.sub_sub s.sp 1#8 1#8
  have hcyc : s.cyc - 2 - 2 = s.cyc - 4 := Int.sub_sub s.cyc 2 2
  simp only [nextStateAll, List.foldl, nextState_pushb, nextState_pushw, pushByte_eq, pushWord_eq, hiByte_makeWord,
    loByte_makeWord, hsp, hcyc]
  rfl

theorem nextStateAll_pushb_pushb_popw (h l : Byte) (s : State) :
    nextStateAll [.pushb h, .pushb l, .popw] s =
      { nextStateAll [.pushw (makeWord h l), .popw] s with cyc := s.cyc - 6 } := by
  have hpop : nextStateAll [.pushb h, .pushb l, .popw] s =
      Instr.nextState .popw (nextStateAll [.pushb h, .pushb l] s) := rfl
  have hcyc : s.cyc - 4 - 2 = s.cyc - 6 := Int.sub_sub s.cyc 4 2
  rw [hpop, nextStateAll_pushb_pushb, nextState_popw, hcyc]
  rfl

section
variable {s : State} (hs : s.Inv)
include hs

theorem nextStateAll_pushb_popb (v : Byte) :
    nextStateAll [.pushb v, .popb] s =
      { s with mem := (pushByte v s).mem, cyc := s.cyc - 4, response := .byte v } := by
  have hsp : s.sp - 1#8 + 1#8 = s.sp := BitVec.sub_add_cancel s.sp 1#8
  have hcyc : s.cyc - 2 - 2 = s.cyc - 4 := Int.sub_sub s.cyc 2 2
  simp only [nextStateAll, List.foldl, nextState_pushb, nextState_popb, hsp, hcyc, stackAddress_toNat,
    cell_pushByte hs, if_true]

theorem nextStateAll_pushw_popb (v : Word) :
    nextStateAll [.pushw v, .popb] s =
      { s with mem := (pushWord v s).mem, sp := s.sp - 1#8, cyc := s.cyc - 4, response := .byte (loByte v) } := by
  have hsp : s.sp - 2#8 + 1#8 = s.sp - 1#8 := by bv_omega
  have hcyc : s.cyc - 2 - 2 = s.cyc - 4 := Int.sub_sub s.cyc 2 2
  simp only [nextStateAll, List.foldl, nextState_pushw, nextState_popb, hsp, hcyc, stackAddress_toNat,
    cell_pushWord_low hs]

theorem nextStateAll_pushw_popb_popb (v : Word) :
    nextStateAll [.pushw v, .popb, .popb] s =
      { s with mem := (pushWord v s).mem, cyc := s.cyc - 6, response := .byte (hiByte v) } := by
  have hpop : nextStateAll [.pushw v, .popb, .popb] s = Instr.nextState .popb (nextStateAll [.pushw v, .popb] s) := rfl
  have hsp : s.sp - 1#8 + 1#8 = s.sp := BitVec.sub_add_cancel s.sp 1#8
  have hcyc : s.cyc - 4 - 2 = s.cyc - 6 := Int.sub_sub s.cyc 4 2
  simp only [hpop, nextStateAll_pushw_popb hs, nextState_popb, hsp, hcyc, stackAddress_toNat, cell_pushWord_high hs]

/-- From 2 on both cells of the push lie where the pop reads (R118). -/
theorem wordThroughStack_of_two_le (v : Word) (hsp : 2 ≤ s.sp.toNat) : wordThroughStack v s = v := by
  have hlo : 257 + (s.sp - 2#8).toNat = 256 + (s.sp - 1#8).toNat := by bv_omega
  have hhi : 258 + (s.sp - 2#8).toNat = 256 + s.sp.toNat := by bv_omega
  rw [wordThroughStack, Memory.wordAt_popWordAddress, hlo, hhi, cell_pushWord_low hs, cell_pushWord_high hs,
    makeWord_bytes]

/-- From 1 the push wraps below the pop's two cells (R118). -/
theorem wordThroughStack_of_eq_one (v : Word) (hsp : s.sp.toNat = 1) :
    wordThroughStack v s = makeWord (s.mem.cell 0x0201) (s.mem.cell 0x0200) := by
  have hlo : 257 + (s.sp - 2#8).toNat = 0x0200 := by bv_omega
  have hhi : 258 + (s.sp - 2#8).toNat = 0x0201 := by bv_omega
  rw [wordThroughStack, Memory.wordAt_popWordAddress, hlo, hhi, cell_pushWord_abovePage hs v (by decide),
    cell_pushWord_abovePage hs v (by decide)]

/-- From 0 the low byte is pushed where the pop reads it, the high byte is not (R118). -/
theorem wordThroughStack_of_eq_zero (v : Word) (hsp : s.sp.toNat = 0) :
    wordThroughStack v s = makeWord (s.mem.cell 0x0200) (loByte v) := by
  have hlo : 257 + (s.sp - 2#8).toNat = 256 + (s.sp - 1#8).toNat := by bv_omega
  have hhi : 258 + (s.sp - 2#8).toNat = 0x0200 := by bv_omega
  rw [wordThroughStack, Memory.wordAt_popWordAddress, hlo, hhi, cell_pushWord_low hs,
    cell_pushWord_abovePage hs v (by decide)]

end

/-- Below 2 the high byte of what is popped lies above the page, cleared in this state, while 0x01 was pushed. -/
theorem forall_wordThroughStack_eq_iff (sp : Byte) :
    (∀ (s : State) (v : Word), s.Inv → s.sp = sp → wordThroughStack v s = v) ↔ 2 ≤ sp.toNat := by
  refine ⟨fun h => ?_, fun h s v hs hsp => wordThroughStack_of_two_le hs v (hsp ▸ h)⟩
  by_contra hlt
  have hs : ((State.powerOn false).setSp sp).Inv := Memory.wf_initialised
  have hclear (n : Nat) : ((State.powerOn false).setSp sp).mem.cell n = 0x00 := rfl
  have hv := h _ 0x0100 hs rfl
  obtain h1 | h0 : sp.toNat = 1 ∨ sp.toNat = 0 := by omega
  · rw [wordThroughStack_of_eq_one hs _ h1, hclear, hclear] at hv
    exact absurd hv (by decide)
  · rw [wordThroughStack_of_eq_zero hs _ h0, hclear] at hv
    exact absurd hv (by decide)

/-- Up to 0xFD two byte pops stay off the top of the page, where they would wrap and a word pop does not (R119). -/
theorem wordAt_popWordAddress_of_le (m : Memory) {sp : Byte} (hsp : sp.toNat ≤ 0xFD) :
    m.wordAt (popWordAddress sp) =
      makeWord (m.cell (stackAddress (sp + 1#8 + 1#8)).toNat) (m.cell (stackAddress (sp + 1#8)).toNat) := by
  have hlo : 256 + (sp + 1#8).toNat = 257 + sp.toNat := by bv_omega
  have hhi : 256 + (sp + 1#8 + 1#8).toNat = 258 + sp.toNat := by bv_omega
  rw [Memory.wordAt_popWordAddress, stackAddress_toNat, stackAddress_toNat, hlo, hhi]

/-- A state with one cell that is not cleared, the first above the stack page. -/
def loadedAbovePage (sp : Byte) : State := { State.powerOn false with sp := sp, mem := [(0x0200, 0x01)] }

/-- From 0xFE on a word pop reads the cell above the page, and two byte pops wrap inside the page (R119). -/
theorem wordAt_popWordAddress_ne_of_lt {sp : Byte} (hsp : 0xFD < sp.toNat) :
    (loadedAbovePage sp).mem.wordAt (popWordAddress sp) ≠
      makeWord ((loadedAbovePage sp).mem.cell (stackAddress (sp + 1#8 + 1#8)).toNat)
        ((loadedAbovePage sp).mem.cell (stackAddress (sp + 1#8)).toNat) := by
  obtain rfl | rfl : sp = 0xFE ∨ sp = 0xFF := by bv_omega
  · decide
  · decide

/-! ### Byte pushes in a row (R115, R156) -/

/-- The state after pushing these bytes in order. -/
def pushBytes (vs : List Byte) (s : State) : State := nextStateAll (vs.map .pushb) s

theorem pushBytes_cons (v : Byte) (vs : List Byte) (s : State) :
    pushBytes (v :: vs) s = pushBytes vs (Instr.nextState (.pushb v) s) := rfl

theorem sub_ofNat_succ (sp : Byte) (k : Nat) : sp - 1#8 - BitVec.ofNat 8 k = sp - BitVec.ofNat 8 (k + 1) := by
  rw [BitVec.sub_sub, ← BitVec.ofNat_add, Nat.add_comm]

theorem toNat_sub_ofNat (sp : Byte) {k : Nat} (hk : k ≤ 256) :
    (sp - BitVec.ofNat 8 k).toNat = (sp.toNat + 256 - k) % 256 := by
  simp only [BitVec.toNat_sub, BitVec.toNat_ofNat]
  omega

theorem pushBytes_sp (vs : List Byte) : ∀ s, (pushBytes vs s).sp = s.sp - BitVec.ofNat 8 vs.length := by
  induction vs with
  | nil => exact fun s => (BitVec.sub_zero s.sp).symm
  | cons v vs ih => exact fun s => (ih _).trans (sub_ofNat_succ s.sp vs.length)

theorem pushBytes_cyc (vs : List Byte) : ∀ s, (pushBytes vs s).cyc = s.cyc - 2 * vs.length := by
  induction vs with
  | nil => exact fun s => (Int.sub_zero s.cyc).symm
  | cons v vs ih =>
    intro s
    rw [pushBytes_cons, ih, nextState_pushb, List.length_cons]
    push_cast
    ring

/-- The frame of pushes in a row. -/
theorem cell_pushBytes_of_ne {n : Nat} (vs : List Byte) : ∀ {s : State}, s.Inv →
    (∀ k < vs.length, n ≠ (stackAddress (s.sp - BitVec.ofNat 8 k)).toNat) →
    (pushBytes vs s).mem.cell n = s.mem.cell n := by
  induction vs with
  | nil => exact fun _ _ => rfl
  | cons v vs ih =>
    intro s hs hn
    have hfirst : n ≠ 256 + s.sp.toNat := by simpa using hn 0 (Nat.succ_pos _)
    have hrest : ∀ k < vs.length, n ≠ (stackAddress (s.sp - 1#8 - BitVec.ofNat 8 k)).toNat := fun k hk =>
      sub_ofNat_succ s.sp k ▸ hn (k + 1) (Nat.succ_lt_succ hk)
    calc (pushBytes vs (Instr.nextState (.pushb v) s)).mem.cell n
      _ = (pushByte v s).mem.cell n := ih (inv_nextState hs _) hrest
      _ = s.mem.cell n := (cell_pushByte hs v n).trans (if_neg hfirst)

/-- Up to a full page no push overwrites one before it. -/
theorem cell_pushBytes (vs : List Byte) : ∀ {s : State}, s.Inv → vs.length ≤ 256 → ∀ k (hk : k < vs.length),
    (pushBytes vs s).mem.cell (stackAddress (s.sp - BitVec.ofNat 8 k)).toNat = vs[k] := by
  induction vs with
  | nil => exact fun _ _ k hk => absurd hk (Nat.not_lt_zero k)
  | cons v vs ih =>
    intro s hs hlen k hk
    have hs' : (Instr.nextState (.pushb v) s).Inv := inv_nextState hs _
    cases k with
    | zero =>
      have hlater : ∀ j < vs.length,
          (stackAddress s.sp).toNat ≠ (stackAddress (s.sp - 1#8 - BitVec.ofNat 8 j)).toNat := by
        intro j hj
        have h := s.sp.isLt
        have hj' : j + 1 < 256 := Nat.lt_of_lt_of_le (Nat.succ_lt_succ hj) hlen
        rw [sub_ofNat_succ, stackAddress_toNat, stackAddress_toNat, toNat_sub_ofNat _ hj'.le]
        omega
      calc (pushBytes (v :: vs) s).mem.cell (stackAddress (s.sp - 0#8)).toNat
        _ = (pushByte v s).mem.cell (stackAddress s.sp).toNat := by
          rw [BitVec.sub_zero]
          exact cell_pushBytes_of_ne vs hs' hlater
        _ = v := by rw [stackAddress_toNat, cell_pushByte hs, if_pos rfl]
    | succ k =>
      rw [← sub_ofNat_succ]
      exact ih hs' (Nat.le_of_succ_le hlen) k (Nat.lt_of_succ_lt_succ hk)

end Sys2Proof.Machine
end

section
namespace Sys2Proof.Proofs
open Sys2Proof.Machine

/-- Settles O30: the word that comes back, by `SP` (R118); a push of `PC` or a neighbour is the word push of it by
definition. -/
theorem wordRoundTripNeedsSpAtLeastTwo : Obligations.WordRoundTripNeedsSpAtLeastTwo := by
  refine ⟨fun s v hs => ?_, fun sp => ?_, fun s => ⟨rfl, rfl, rfl⟩⟩
  · rw [exists_execAll_iff, nextStateAll_pushw_popw, setWidth_eq_loByte]
    exact ⟨rfl, rfl, fun h => congrArg _ (wordThroughStack_of_two_le hs v h),
      fun h => congrArg _ (wordThroughStack_of_eq_one hs v h),
      fun h => congrArg _ (wordThroughStack_of_eq_zero hs v h)⟩
  · simp only [exists_execAll_iff, nextStateAll_pushw_popw, Response.word.injEq]
    exact forall_wordThroughStack_eq_iff sp

/-- Settles O31: the pop reads the cell of the push, also where `SP` wraps (R115, R116). -/
theorem byteRoundTripAlwaysWorks : Obligations.ByteRoundTripAlwaysWorks := by
  intro s v hs
  rw [exists_execAll_iff, nextStateAll_pushb_popb hs]
  exact ⟨rfl, rfl, rfl⟩

/-- Settles O32: (a) is the word round trip, as two byte pushes leave what the word push leaves; (b) reads the two cells
of the push; (c) reads the same two cells up to 0xFD, and above that the word pop leaves the page (R119). -/
theorem mixedByteAndWordStackUse : Obligations.MixedByteAndWordStackUse := by
  refine ⟨fun s h l hs hsp => ?_, fun sp => ?_, fun s h l hs => ?_, fun s => ?_, fun sp hsp => ?_⟩
  · rw [exists_execAll_iff, nextStateAll_pushb_pushb_popw, nextStateAll_pushw_popw]
    exact ⟨congrArg _ (wordThroughStack_of_two_le hs (makeWord h l) hsp), rfl, rfl⟩
  · simp only [exists_execAll_iff, nextStateAll_pushb_pushb_popw, nextStateAll_pushw_popw, Response.word.injEq]
    rw [← forall_wordThroughStack_eq_iff sp]
    exact ⟨fun hb s v hs hsp => makeWord_bytes v ▸ hb s (hiByte v) (loByte v) hs hsp,
      fun hw s h l hs hsp => hw s (makeWord h l) hs hsp⟩
  · have hpops : Instr.nextState .popb (nextStateAll [.pushw (makeWord h l), .popb] s) = _ :=
      nextStateAll_pushw_popb_popb hs (makeWord h l)
    refine ⟨nextStateAll [.pushw (makeWord h l), .popb] s, _, execAll_eq_nextStateAll _ s, ?_,
      exec_eq_nextState .popb _, ?_⟩
    · rw [nextStateAll_pushw_popb hs, loByte_makeWord]
    · rw [hpops, hiByte_makeWord]
      exact ⟨rfl, rfl, rfl⟩
  · refine ⟨_, _, _, _, _, exec_eq_nextState .popb s, rfl, exec_eq_nextState .popb _, rfl, exec_eq_nextState .popw s,
      ?_, ?_, rfl, fun h => congrArg Response.word (wordAt_popWordAddress_of_le s.mem h)⟩
    · exact BitVec.add_assoc s.sp 1#8 1#8
    · exact Int.sub_sub s.cyc 2 2
  · exact ⟨loadedAbovePage sp, rfl, rfl, _, _, _, _, _, exec_eq_nextState .popb _, rfl, exec_eq_nextState .popb _,
      rfl, exec_eq_nextState .popw _, mt Response.word.inj (wordAt_popWordAddress_ne_of_lt hsp)⟩

/-- Settles O33: the 256 cells of the pushes are distinct and fill the stack page, and 256 steps of `SP` are none
(R115, R156). -/
theorem fullPageOfPushesWrapsOnce : Obligations.FullPageOfPushesWrapsOnce := by
  intro s vs hs hlen
  refine ⟨pushBytes vs s, execAll_eq_nextStateAll _ s, ?_, ?_, fun k hk => ?_, fun n hn => ?_⟩
  · rw [pushBytes_sp, hlen]
    exact BitVec.sub_zero s.sp
  · rw [pushBytes_cyc, hlen]
    rfl
  · rw [← toNat_sub_ofNat s.sp (by omega), ← stackAddress_toNat]
    exact cell_pushBytes vs hs hlen.le k hk
  · refine cell_pushBytes_of_ne vs hs fun k _ => ?_
    obtain ⟨hlo, hhi⟩ := stackAddress_mem_page (s.sp - BitVec.ofNat 8 k)
    omega

/-- Settles O34: two byte pushes are one word push but for the budget (R111, R157). -/
theorem wordPushIsTwoBytePushesAtHalfCost : Obligations.WordPushIsTwoBytePushesAtHalfCost := by
  intro s h l
  rw [exists_execAll_iff, nextStateAll_pushb_pushb, exec_eq_nextState]
  exact ⟨rfl, rfl⟩

end Sys2Proof.Proofs
end

section
/-! No operation looks at the budget (R140). -/

namespace Sys2Proof.Machine

/-- The budget stands in one entry of the next state, its own: every other table reads registers, flags and cells. -/
theorem nextState_withBudget (i : Instr) (s : State) (n : Int) :
    i.nextState { s with cyc := n } = { i.nextState s with cyc := n - i.cost } := rfl

end Sys2Proof.Machine
end

section
namespace Sys2Proof.Proofs
open Sys2Proof.Machine

/-- Settles O38: an operation completes at every budget, and the budget enters its next state only as what the cost is
taken from (R140). -/
theorem budgetIsNeverTested : Obligations.BudgetIsNeverTested := by
  intro i s n
  refine ⟨i.nextState s, exec_eq_nextState i s, ?_⟩
  rw [exec_eq_nextState, nextState_withBudget]

/-- Settles O35: every operation has its next state, and `Fault` has no constructor (R6, R130). -/
theorem everyOperationCompletes : Obligations.EveryOperationCompletes :=
  ⟨fun i s => ⟨i.nextState s, exec_eq_nextState i s⟩, fun f => nomatch f⟩

end Sys2Proof.Proofs
end

section
/-! The cost table by operation code (R164), the cost of a sequence (R165), and the power-on state (R150, R151). -/

namespace Sys2Proof
open Sys2Proof.Machine

/-- The cost table of R164, by operation code (R55). -/
def costOfOp (op : Byte) : Int :=
  if op ∈ [0x30, 0x31, 0x40, 0x42] then 1
  else if op ∈ [0x32, 0x41, 0x43, 0x51, 0x52, 0x53, 0x54, 0x55, 0x56, 0x57] then 2
  else 0

/-- No row of the table looks at the selector or an operand. -/
theorem Instr.cost_eq_costOfOp (i : Instr) : i.cost = costOfOp i.fields.op := by
  cases i <;> rfl

namespace Machine

theorem nextStateAll_cyc (is : List Instr) : ∀ s, (nextStateAll is s).cyc = s.cyc - (is.map Instr.cost).sum := by
  induction is with
  | nil => exact fun s => (Int.sub_zero s.cyc).symm
  | cons i is ih =>
    intro s
    calc (nextStateAll is (i.nextState s)).cyc
      _ = s.cyc - i.cost - (is.map Instr.cost).sum := ih (i.nextState s)
      _ = s.cyc - ((i :: is).map Instr.cost).sum := Int.sub_sub ..

/-- `RESET` has nothing to change at power-on: it keeps `P.U`, the budget and the queue, and the rest is its own. -/
theorem exec_reset_powerOn (u : Bool) : exec .reset (State.powerOn u) = .next (State.powerOn u) :=
  exec_reset (State.powerOn u)

theorem toByte_powerOn (u : Bool) : (State.powerOn u).p.toByte = if u then 0x20 else 0x00 := by
  cases u <;> rfl

end Machine
end Sys2Proof
end

section
namespace Sys2Proof.Proofs
open Sys2Proof.Machine

/-- Settles O36: the budget's entry of the next state subtracts the cost, and the cost is a function of the code. -/
theorem everyOperationCostsItsTableEntry : Obligations.EveryOperationCostsItsTableEntry := by
  refine ⟨fun i s => ⟨i.nextState s, exec_eq_nextState i s, rfl⟩, fun i j h => ?_⟩
  rw [i.cost_eq_costOfOp, j.cost_eq_costOfOp, h]

/-- Settles O37: by induction on the sequence (R165). -/
theorem sequenceCostsTheSum : Obligations.SequenceCostsTheSum := fun is s =>
  exists_execAll_iff.2 (nextStateAll_cyc is s)

/-- Settles O47: `State.powerOn` holds the table of R150, and `RESET` leaves it as it is, for both values of `P.U`. -/
theorem powerOnStateForBothUnusedValues : Obligations.PowerOnStateForBothUnusedValues :=
  ⟨rfl, fun u => ⟨State.powerOn u, rfl, exec_reset_powerOn u, rfl, rfl, rfl, rfl, rfl, rfl, toByte_powerOn u,
    Memory.cell_initialised⟩⟩

end Sys2Proof.Proofs
end
